-- ==== Sys2Proof/Word.lean ====
section
/-! DEFINITION. The widths and index types the manual names: bytes, words of the array, upstream addresses, and the
numbers of masters, tags, entries, records and lanes (00_scope.md "Terms", R1, R2, R16, R48, R61, R77, R134). -/
namespace Sys2Proof

/-- A byte of data. -/
abbrev Byte := BitVec 8
/-- The 64 data bits of an array word (R1). -/
abbrev DataWord := BitVec 64
/-- The 72 bits of an array word: data at positions 0-63, check bits at 64-71 (R1). -/
abbrev CodedWord := BitVec 72
/-- An upstream byte address, 0 to 4 GiB - 1 (00_scope.md "Terms"). -/
abbrev UpAddr := BitVec 32
/-- A master, 0 to 7. -/
abbrev MasterIx := Fin 8
/-- A tag, 0 to 15. -/
abbrev Tag := Fin 16
/-- A combine entry, 0 to 15 (R16). -/
abbrev EntryIx := Fin 16
/-- A read record, 0 to 7 (R61). -/
abbrev ReadIx := Fin 8
/-- A bit operation record, 0 to 3 (R77). -/
abbrev BitIx := Fin 4
/-- A lane, 0 to 3 (R48). -/
abbrev LaneIx := Fin 4
/-- A word of a line, 0 to 3 (R2). -/
abbrev WordIx := Fin 4
/-- A region descriptor, 0 to 7 (R5). -/
abbrev RegionIx := Fin 8
/-- A set of masters: bit m stands for master m. -/
abbrev MasterSet := BitVec 8
/-- A set of byte positions of a line: bit p stands for position p. -/
abbrev PosSet := BitVec 32
/-- A set of combine entries: bit e stands for entry e. -/
abbrev EntrySet := BitVec 16
/-- A set of tags: bit t stands for tag t. -/
abbrev TagSet := BitVec 16
/-- A set of event sources: bit k - 1 stands for source k (R181). -/
abbrev SourceSet := BitVec 12
/-- The 32 data bytes of a line, byte position 0 first (R2). -/
abbrev LineBytes := Vector Byte 32

end Sys2Proof
end

