-- ==== Sys2Proof/Syntax.lean ====
section
/-! DEFINITION. The commands of the block, one constructor for each row of spec/opcode_table.json in the table's
order, with the operands the manual gives each event, request and management command. -/
namespace Sys2Proof

/-- The three bit operations (R76). -/
inductive BitKind where
  | setBits | clearBits | flipBits
  deriving DecidableEq, Repr

/-- A request on the upstream bus (R134). Data bytes belong to ascending addresses from `address`; a WRITE's and a
bit operation's count is the length of its data. The tag of a WRITE is carried and ignored. A count outside 1 to 32 is a term
too, refused at the head (log entry 15). -/
inductive Request where
  | read (master : MasterIx) (tag : Tag) (address : UpAddr) (count : Nat)
  | write (master : MasterIx) (tag : Tag) (address : UpAddr) (data : List Byte)
  | bitOp (kind : BitKind) (master : MasterIx) (tag : Tag) (address : UpAddr) (operand : List Byte)
  | barrier (master : MasterIx) (tag : Tag)
  deriving DecidableEq, Repr

/-- An edge of MCK; a rising edge carries the level of MDI that it samples (R174). -/
inductive Edge where
  | rising (mdi : Bool)
  | falling
  deriving DecidableEq, Repr

/-- A completion the array signals (R106): DONE with the four words of a LINE-READ (not read for a LINE-WRITE), or
FAULT. -/
inductive Completion where
  | done (words : Vector CodedWord 4)
  | fault
  deriving DecidableEq, Repr

/-- The commands, one constructor per row of spec/opcode_table.json. A management command carries the argument byte
its rule reads and the payload bytes of its frame; an argument byte a command ignores (R179) is no operand. -/
inductive Instr where
  /-- POWER_ON_RESET (R151). -/
  | powerOnReset
  /-- BUSRST_ASSERTED (R147). -/
  | busrstAsserted
  /-- BUSRST_DEASSERTED (R148). -/
  | busrstDeasserted
  /-- REQUEST_ARRIVAL (R137): a request is presented by the upstream bus. -/
  | requestArrival (r : Request)
  /-- HEAD_OFFER (R139): the request at the intake head is offered. -/
  | headOffer
  /-- RESPONSE_DELIVERY (R146): the bus accepts the response at the head of the response queue. -/
  | responseDelivery
  /-- READ_RESPONSE_PLACED (R70). -/
  | readResponsePlaced
  /-- BITOP_RESPONSE_PLACED (R84). -/
  | bitopResponsePlaced
  /-- BARRIER_RESPONSE_PLACED (R94). -/
  | barrierResponsePlaced
  /-- AGE_EXPIRY (R28) of entry `e`'s timer. -/
  | ageExpiry (e : EntryIx)
  /-- CLOSE_PENDING_COMMIT (R35) of the close-pending successor `e`. -/
  | closePendingCommit (e : EntryIx)
  /-- LANE_DISPATCH (R51). -/
  | laneDispatch
  /-- COMMAND_ISSUE (R108). -/
  | commandIssue
  /-- ARRAY_DONE (R109): DONE, with the four 72-bit words of a LINE-READ. -/
  | arrayDone (words : Vector CodedWord 4)
  /-- ARRAY_FAULT (R110). -/
  | arrayFault
  /-- COMPLETION_TIMEOUT (R111). -/
  | completionTimeout
  /-- ABORT_INTERVAL_END (R111). -/
  | abortIntervalEnd
  /-- SCRUB_INTERVAL_EXPIRY (R126). -/
  | scrubIntervalExpiry
  /-- QUIESCE_COMPLETE (R156). -/
  | quiesceComplete
  /-- RESTART_CLEARING (R161). -/
  | restartClearing
  /-- MSEL_ASSERT (R174). -/
  | mselAssert
  /-- MSEL_DEASSERT (R174). -/
  | mselDeassert
  /-- BAD_CHECK_FRAME (R176): a command frame with a wrong CRC-8 or a length byte above 40 is complete. -/
  | badCheckFrame
  /-- GET_ITEM (R180). -/
  | getItem (item : Byte) (payload : List Byte)
  /-- SET_ITEM (R181). -/
  | setItem (item : Byte) (payload : List Byte)
  /-- SET_MEMORY_SIZE (R3). -/
  | setMemorySize (payload : List Byte)
  /-- SET_REGION (R6) of descriptor `n`. -/
  | setRegion (n : RegionIx) (payload : List Byte)
  /-- SET_CLOSE_AHEAD (R25). -/
  | setCloseAhead (payload : List Byte)
  /-- SET_SCRUB_POSITION (R132). -/
  | setScrubPosition (payload : List Byte)
  /-- SET_CORRECTED_COUNT (R120). -/
  | setCorrectedCount (payload : List Byte)
  /-- SET_FRAME_ERRORS (R177). -/
  | setFrameErrors (payload : List Byte)
  /-- SET_EVENT_ENABLE (R167). -/
  | setEventEnable (payload : List Byte)
  /-- SET_EVENT_LEVEL (R167). -/
  | setEventLevel (payload : List Byte)
  /-- SET_EVENT_PENDING (R168). -/
  | setEventPending (payload : List Byte)
  /-- START (R154). -/
  | start (payload : List Byte)
  /-- QUIESCE (R155). -/
  | quiesce (payload : List Byte)
  /-- CONFIGURE (R157). -/
  | configure (payload : List Byte)
  /-- HALT (R158). -/
  | halt (payload : List Byte)
  /-- RESTART (R160). -/
  | restart (payload : List Byte)
  /-- FLUSH (R32). -/
  | flush (payload : List Byte)
  /-- READ_ENTRY (R40): the argument byte is the entry number. -/
  | readEntry (index : Byte) (payload : List Byte)
  /-- READ_MASTER (R90): the argument byte is the master number. -/
  | readMaster (master : Byte) (payload : List Byte)
  /-- RELEASE_DISCARD (R102): RELEASE with action byte 0. -/
  | releaseDiscard (index : Byte)
  /-- RELEASE_RETRY (R103): RELEASE with action byte 1. -/
  | releaseRetry (index : Byte)
  /-- RELEASE_FORCE (R104): RELEASE with action byte 2. -/
  | releaseForce (index : Byte)
  /-- FAULT_PEEK (R164). -/
  | faultPeek (payload : List Byte)
  /-- FAULT_POP (R164). -/
  | faultPop (payload : List Byte)
  /-- FAULT_CLEAR (R165). -/
  | faultClear (payload : List Byte)
  /-- NEXT_EVENT (R171). -/
  | nextEvent (payload : List Byte)
  /-- END_SERVICE (R172). -/
  | endService (payload : List Byte)
  /-- SCRUB_START (R131). -/
  | scrubStart (payload : List Byte)
  /-- SCRUB_STOP (R131). -/
  | scrubStop (payload : List Byte)
  /-- MCK_EDGE (R174). -/
  | mckEdge (edge : Edge)
  /-- DISREGARDED_COMPLETION (R111): a completion signalled while no command is ISSUED. -/
  | disregardedCompletion (c : Completion)
  /-- BAD_COMMAND_FRAME (R179): a correct frame whose code is 0 or 19 to 255 is complete. -/
  | badCommandFrame
  deriving DecidableEq, Repr

end Sys2Proof
end

