-- ==== Sys2Proof/Config.lean ====
section
/-! DEFINITION. What the manual fixes for every HM-4032 (sizes of queues, codes, the identity), and the one value it
leaves open (the number of filler bytes of a reply, R174). -/
namespace Sys2Proof.Config

/-- The intake queue holds up to 8 requests (R137). -/
def intakeDepth : Nat := 8
/-- The response queue holds up to 16 responses (R144). -/
def responseDepth : Nat := 16
/-- The fault queue holds up to 8 records (R163). -/
def faultDepth : Nat := 8
/-- A fill's readers list holds at most 8 records (R65). -/
def readersDepth : Nat := 8
/-- The overflow count, a deferred error's further count and FRAME-ERRORS stop at 255 (R163, R89, R177). -/
def byteCountMax : Nat := 255
/-- CORRECTED-COUNT stops at 65535 (R120). -/
def correctedMax : Nat := 65535
/-- The consecutive failure count stops at 15 (R113). -/
def failuresMax : Nat := 15
/-- The abort interval tABT, in microseconds (R111). -/
def abortInterval : Nat := 1
/-- The filler byte of the management port (R174). -/
def fillerByte : Byte := 255
/-- The start marker of a response frame (R174). -/
def startMarker : Byte := 90
/-- The longest payload a command frame may announce (R175). -/
def maxPayload : Nat := 40
/-- IDENTITY: family code, part number, revision (R182). -/
def familyCode : Nat := 23
def partNumber : Nat := 4032
def revision : Nat := 1

/-- FREE VALUE (R174: "The bridge chooses the number of filler bytes in each exchange within the range of NFILL, and
the number may differ from one exchange to the next"). The n-th reply of the bridge is preceded by
`1 + (fillerChoice n).toNat` filler bytes, 1 to 4. No body: nothing in Lean gives a value of it (log entry 1). -/
opaque fillerChoice : Nat → BitVec 2

/-- NFILL of the n-th reply: 1 to 4 filler bytes (R174). -/
def fillers (n : Nat) : Nat := 1 + (fillerChoice n).toNat

end Sys2Proof.Config
end

