-- ==== Sys2Proof/Machine/State.lean ====
section
/-! DEFINITION. The state of the bridge as plain data, block by block as in the manual's "Block overview" (00_scope.md),
the reasons a step can stop, and the state after power-on reset. -/
namespace Sys2Proof.Machine

/-! ## Region map (01, R3, R5) -/

/-- What a window allows (R5, R9). -/
inductive Attr where
  | combine | direct | readOnly | closed
  deriving DecidableEq, Repr

/-- A region descriptor (R5). `base` and `offset` are byte addresses, multiples of 4 KiB. -/
structure Region where
  valid : Bool
  base : Nat
  sizeCode : Nat
  offset : Nat
  attr : Attr
  masters : MasterSet
  deriving DecidableEq, Repr

/-- The power-on descriptor (R5). -/
def Region.reset : Region := ⟨false, 0, 0, 0, .closed, 0⟩

/-- The capacity code (R3) and the eight descriptors (R5). -/
structure RegionMap where
  memorySize : Nat
  regions : Vector Region 8
  deriving DecidableEq, Repr

/-- Why a lookup answers DENIED (R11). -/
inductive DenialCause where
  | closed | master | readOnly
  deriving DecidableEq, Repr

/-! ## Combine buffer (02, R16-R20) -/

inductive EntryState where
  | free | opened | committed | draining | held
  deriving DecidableEq, Repr

inductive HeldReason where
  | uncorrectable | timeout | memFault
  deriving DecidableEq, Repr

/-- A combine entry (R16). `ageTimer` is the remaining time while running, absent when stopped. -/
structure Entry where
  state : EntryState
  line : Option Nat
  valid : PosSet
  data : LineBytes
  contributors : MasterSet
  openedOrder : Option (BitVec 16)
  closePending : Bool
  ageTimer : Option Nat
  heldReason : Option HeldReason
  deriving DecidableEq, Repr

/-- A FREE entry (R19, R35); its data bytes have no meaning and are kept as zero (log entry 10). -/
def Entry.free : Entry :=
  ⟨.free, none, 0, Vector.replicate 32 0, 0, none, false, none, none⟩

structure CombineBuffer where
  entries : Vector Entry 16
  openOrder : List EntryIx
  counter : BitVec 16
  ageLimit : Nat
  closeAhead : Nat
  deriving DecidableEq, Repr

/-! ## Records of reads and bit operations (04, R61; 05, R77) -/

/-- The status of a DATA or OLD-DATA response (R61, R77, R136). -/
inductive RecordStatus where
  | ok | dataError | memTimeout | memFault | halted
  deriving DecidableEq, Repr

/-- What a read record keeps from take to free: the request and its overlay snapshot (R64). -/
structure ReadReq where
  master : MasterIx
  tag : Tag
  line : Nat
  first : Nat
  count : Nat
  overlaySet : PosSet
  overlayData : LineBytes
  deriving DecidableEq, Repr

inductive ReadRec where
  | free
  | waitFill (r : ReadReq)
  | ready (r : ReadReq) (status : RecordStatus) (data : List Byte)
  | orphaned (r : ReadReq)
  deriving DecidableEq, Repr

/-- What a bit operation record keeps from admission to free (R77, R80). -/
structure BitReq where
  master : MasterIx
  tag : Tag
  kind : BitKind
  line : Nat
  word : WordIx
  first : Nat
  operand : List Byte
  deriving DecidableEq, Repr

/-- A bit operation record (R77). IN-FLIGHT also keeps the old bytes between the read and the write (R82, log entry 14). -/
inductive BitRec where
  | free
  | queued (b : BitReq)
  | inFlight (b : BitReq) (old : List Byte)
  | ready (b : BitReq) (status : RecordStatus) (data : List Byte)
  | orphaned (b : BitReq)
  deriving DecidableEq, Repr

/-! ## Operation list and lanes (03, R42, R48) -/

inductive DrainKind where
  | fullWrite | mergeWrite | forceWrite
  deriving DecidableEq, Repr

/-- The six operation kinds as the fault records and the layouts name them (R42, R184). -/
inductive OpKind where
  | drain (k : DrainKind) | fillRead | bitop | scrub
  deriving DecidableEq, Repr

/-- An operation's kind together with the field its kind carries (R42). -/
inductive Work where
  | drain (kind : DrainKind) (entry : EntryIx)
  | fill (readers : List ReadIx)
  | bitop (record : BitIx)
  | scrub
  deriving DecidableEq, Repr

inductive Phase where
  | queued
  | inFlight (lane : LaneIx)
  deriving DecidableEq, Repr

structure Operation where
  work : Work
  line : Nat
  queuedOrder : BitVec 16
  phase : Phase
  deriving DecidableEq, Repr

structure OperationList where
  ops : List Operation
  counter : BitVec 16
  deriving DecidableEq, Repr

inductive LaneStep where
  | readWait | writeWait | stopped
  deriving DecidableEq, Repr

/-- A lane (R48). The operation of a BUSY lane is the one whose phase names the lane. -/
inductive Lane where
  | idle
  | busy (step : LaneStep)
  deriving DecidableEq, Repr

/-! ## Array port (07, R106-R114) -/

/-- LINE-READ, or LINE-WRITE with its four data words (R106, R107). -/
inductive ArrayCmd where
  | lineRead
  | lineWrite (words : Vector DataWord 4)
  deriving DecidableEq, Repr

structure QueuedCmd where
  lane : LaneIx
  cmd : ArrayCmd
  line : Nat
  deriving DecidableEq, Repr

/-- What stands at the array: a LINE-READ, or a LINE-WRITE with the four 72-bit words presented (R108). -/
inductive Presented where
  | lineRead
  | lineWrite (words : Vector CodedWord 4)
  deriving DecidableEq, Repr

/-- The command in progress (R108). -/
structure InProgress where
  lane : LaneIx
  cmd : Presented
  line : Nat
  issueCount : Nat
  retries : Nat
  deriving DecidableEq, Repr

/-- The port condition (R108). ABORTING keeps the command in progress exactly while its reissue is pending (R111). -/
inductive PortCondition where
  | idle
  | issued (c : InProgress) (timer : Nat)
  | aborting (reissue : Option InProgress) (left : Nat)
  deriving DecidableEq, Repr

structure ArrayPort where
  condition : PortCondition
  queue : List QueuedCmd
  abortLine : Bool
  failures : Nat
  correctedCount : Nat
  responseTimeout : Nat
  retryLimit : Nat
  haltThreshold : Nat
  logCorrected : Bool
  deriving DecidableEq, Repr

/-- The class of a word read (R119). -/
inductive Classification where
  | clean
  | corrected (position : Nat)
  | uncorrectable
  deriving DecidableEq, Repr

/-- A word as the port hands it to a lane (R119). -/
structure ReadWord where
  data : DataWord
  cls : Classification
  deriving DecidableEq, Repr

/-- The reason of a final failure (R112). -/
inductive FailReason where
  | timeout | memFault
  deriving DecidableEq, Repr

/-! ## Patrol scrubber (08, R123) -/

structure Scrubber where
  running : Bool
  timer : Option Nat
  position : Nat
  passes : BitVec 16
  interval : Nat
  deriving DecidableEq, Repr

/-! ## Master contexts (06, R88; 09, R143) -/

inductive DeferredKind where
  | lineHeld | writeDenied | writeUnmapped | writeMisaligned | writeNotRunning
  deriving DecidableEq, Repr

structure Deferred where
  kind : DeferredKind
  further : Nat
  deriving DecidableEq, Repr

structure Barrier where
  tag : Tag
  waitSet : EntrySet
  deriving DecidableEq, Repr

structure MasterCtx where
  tags : TagSet
  barrier : Option Barrier
  deferred : Option Deferred
  deriving DecidableEq, Repr

def MasterCtx.reset : MasterCtx := ⟨0, none, none⟩

/-! ## Upstream port (09, R134-R148) -/

/-- The statuses of a REFUSED response (R136). -/
inductive RefusalStatus where
  | notRunning | halted | tagClash | misaligned | unmapped | denied | busy | lineHeld
  deriving DecidableEq, Repr

/-- A response (R135). A BARRIER-DONE response with no deferred error has status OK, with one DEFERRED-ERROR (R92). -/
inductive Response where
  | data (master : MasterIx) (tag : Tag) (status : RecordStatus) (bytes : List Byte)
  | oldData (master : MasterIx) (tag : Tag) (status : RecordStatus) (bytes : List Byte)
  | barrierDone (master : MasterIx) (tag : Tag) (deferred : Option Deferred)
  | refused (master : MasterIx) (tag : Tag) (status : RefusalStatus)
  deriving DecidableEq, Repr

/-- What the request at the head waits for (R142): a FREE entry, with the mark that BUFFER-STUCK has been raised in this
wait (R27); a read's record or slot (R66); a bit operation's clear line or record (R79); a barrier's slot (R91,
log entry 27); the slot of another refusal (R140), with the line of a bit operation whose wait R79 goes on (log entry 26). -/
inductive HeadWait where
  | none
  | freeEntry (stuckRaised : Bool)
  | read (line : Nat)
  | bitOp (line : Nat)
  | barrier
  | slot (bitLine : Option Nat)
  deriving DecidableEq, Repr

/-- The upstream port. `offerDue` is the model's own: a trigger of R138 has occurred in this event (log entry 2). -/
structure Upstream where
  intake : List Request
  headWait : HeadWait
  offerDue : Bool
  responses : List Response
  busrst : Bool
  deriving DecidableEq, Repr

/-! ## State controller (10, R151) -/

inductive BridgeState where
  | config | run | quiescing | quiesced | halted | restarting
  deriving DecidableEq, Repr

inductive HaltCause where
  | command | threshold
  deriving DecidableEq, Repr

structure Control where
  bridge : BridgeState
  haltCause : Option HaltCause
  deriving DecidableEq, Repr

/-! ## Fault queue and event unit (11, R162-R170) -/

/-- The six request kinds, as TAG-CLASH's detail names them (R140, R184). -/
inductive ReqKind where
  | read | write | bits (k : BitKind) | barrier
  deriving DecidableEq, Repr

inductive MergeDetail where
  | notCovered | overwritten | forced
  deriving DecidableEq, Repr

inductive BitopDetail where
  | targetWord | otherWord
  deriving DecidableEq, Repr

/-- LINE-READ or LINE-WRITE, as the detail of MEM-TIMEOUT and MEM-FAULT names it (R112). -/
inductive CmdKind where
  | lineRead | lineWrite
  deriving DecidableEq, Repr

/-- The fourteen fault kinds, each with its detail (R162). `corrected`'s detail is CHECK when `check` holds, else DATA. -/
inductive FaultKind where
  | writeDenied (cause : DenialCause) (region : RegionIx)
  | writeUnmapped (count : Nat)
  | writeMisaligned (first count : Nat)
  | writeNotRunning (state : BridgeState)
  | tagClash (kind : ReqKind)
  | readUncorrectable (readers : Nat)
  | mergeUncorrectable (detail : MergeDetail)
  | bitopUncorrectable (detail : BitopDetail)
  | scrubUncorrectable (uncorrectable corrected : Nat)
  | corrected (check : Bool)
  | memTimeout (cmd : CmdKind) (issues : Nat)
  | memFault (cmd : CmdKind) (issues : Nat)
  | lineHeld (reason : HeldReason) (entry : EntryIx)
  | halt (cause : HaltCause) (left : BridgeState) (failures : Nat)
  deriving DecidableEq, Repr

/-- A fault record (R162). Operation kind and queued-order are present together. -/
structure FaultRecord where
  sequence : BitVec 16
  kind : FaultKind
  master : Option MasterIx
  tag : Option Tag
  address : Option UpAddr
  line : Option Nat
  word : Option WordIx
  bitPosition : Option Nat
  operation : Option (OpKind × BitVec 16)
  deriving DecidableEq, Repr

structure FaultQueue where
  records : List FaultRecord
  overflow : Nat
  sequence : BitVec 16
  deriving DecidableEq, Repr

/-- The twelve event sources (R166). -/
inductive EventSource where
  | halt | uncorrectable | lineHeld | bufferStuck | memFailure | faultOverflow | writeDropped | busReset | quiesced
  | corrected | scrubPass | mgmtError
  deriving DecidableEq, Repr

/-- The level of a source (R166); a level on the service stack (R169). -/
inductive Level where
  | routine | urgent
  deriving DecidableEq, Repr

/-- The event unit (R166-R170). `urgent` holds the levels: a set bit means URGENT (R181). The stack is bottom first. -/
structure EventUnit where
  pending : SourceSet
  enable : SourceSet
  urgent : SourceSet
  stack : List Level
  alert : Bool
  deriving DecidableEq, Repr

/-! ## Management port (12, R174-R178) -/

inductive FrameCondition where
  | idle | command | reply | trailing
  deriving DecidableEq, Repr

/-- Management statuses (R184). -/
inductive MgmtStatus where
  | ok | badCheck | badCommand | badItem | badValue | badState | badConfig | notHeld | empty
  deriving DecidableEq, Repr

/-- The management port. `bytes` are the complete bytes of the command frame, `bits` those of the byte in progress, first
received first; `response` is the response frame, `fillers` the filler bytes before it and `sent` the bits shifted out in
REPLY; `exchanges` counts replies and is the model's own (log entry 1). -/
structure MgmtPort where
  msel : Bool
  mdo : Bool
  condition : FrameCondition
  bytes : List Byte
  bits : List Bool
  response : List Byte
  fillers : Nat
  sent : Nat
  frameErrors : Nat
  exchanges : Nat
  deriving DecidableEq, Repr

/-! ## The whole bridge -/

/-- The state of the bridge, and the queue of commands waiting for it. -/
structure State where
  regionMap : RegionMap
  upstream : Upstream
  buffer : CombineBuffer
  reads : Vector ReadRec 8
  bitops : Vector BitRec 4
  opList : OperationList
  lanes : Vector Lane 4
  port : ArrayPort
  scrub : Scrubber
  masters : Vector MasterCtx 8
  control : Control
  faults : FaultQueue
  events : EventUnit
  mgmt : MgmtPort
  pending : List Instr
  deriving DecidableEq, Repr

/-- No command of the manual stops the block: every error it describes is an effect on State (fault records, event
sources, deferred errors, statuses), so there is no fault to raise. -/
inductive Fault where
  deriving DecidableEq, Repr

inductive Refusal where
  /-- Raised by exec's arm of a command that has no meaning yet; safe (no next state is given). -/
  | notModelled (mnemonic : String)
  deriving DecidableEq, Repr

/-- The state after power-on reset: each block's rule is named in INVENTORY.md under State. -/
def State.reset : State where
  regionMap := ⟨0, Vector.replicate 8 Region.reset⟩
  upstream := ⟨[], .none, false, [], false⟩
  buffer := ⟨Vector.replicate 16 Entry.free, [], 0, 64, 2⟩
  reads := Vector.replicate 8 .free
  bitops := Vector.replicate 4 .free
  opList := ⟨[], 0⟩
  lanes := Vector.replicate 4 .idle
  port := ⟨.idle, [], false, 0, 0, 20, 1, 4, false⟩
  scrub := ⟨false, none, 0, 0, 1000⟩
  masters := Vector.replicate 8 MasterCtx.reset
  control := ⟨.config, none⟩
  faults := ⟨[], 0, 0⟩
  events := ⟨0, 2559, 15, [], false⟩
  mgmt := ⟨false, true, .idle, [], [], [], 1, 0, 0, 0⟩
  pending := []

end Sys2Proof.Machine
end

