-- ==== Sys2Proof/Machine/Flags.lean ====
section
/-! DEFINITION. The flags of the block: event sources, service level and ALERT (R166-R173), and the fault queue's offer
(R162, R163). -/
namespace Sys2Proof.Machine

/-- The bit of an event source in a source mask: source k at bit k - 1 (R166's table, R181). -/
def EventSource.bit : EventSource → Nat
  | .halt => 0
  | .uncorrectable => 1
  | .lineHeld => 2
  | .bufferStuck => 3
  | .memFailure => 4
  | .faultOverflow => 5
  | .writeDropped => 6
  | .busReset => 7
  | .quiesced => 8
  | .corrected => 9
  | .scrubPass => 10
  | .mgmtError => 11

/-- The mask of one source. -/
def EventSource.mask (e : EventSource) : SourceSet := BitVec.twoPow 12 e.bit

/-- The current service level: the top of the stack, NONE when empty (R169). The stack is bottom first. -/
def EventUnit.currentLevel (u : EventUnit) : Option Level := u.stack.getLast?

/-- The sources that are enabled, pending, and of a level above the current service level (R170, R171). -/
def EventUnit.eligible (u : EventUnit) : SourceSet :=
  match u.currentLevel with
  | none => u.pending &&& u.enable
  | some .routine => u.pending &&& u.enable &&& u.urgent
  | some .urgent => 0

/-- ALERT is asserted exactly while an enabled pending source has a level above the current one (R170). -/
def EventUnit.alertNow (u : EventUnit) : Bool := u.eligible != 0

/-- ALERT recomputed (R170). -/
def EventUnit.recompute (u : EventUnit) : EventUnit := { u with alert := u.alertNow }

/-- To raise a source is to set its pending flag (R166); ALERT is recomputed. -/
def EventUnit.raise (e : EventSource) (u : EventUnit) : EventUnit :=
  { u with pending := u.pending ||| e.mask }.recompute

/-- The pending flags of the named sources are cleared (R168); ALERT is recomputed. -/
def EventUnit.clear (set : SourceSet) (u : EventUnit) : EventUnit :=
  { u with pending := u.pending &&& ~~~set }.recompute

/-- The lowest-numbered source of a mask, as its bit (R171). -/
def lowestSource (set : SourceSet) : Option (Fin 12) := (List.finRange 12).find? fun i => set.getLsbD i

/-- NEXT-EVENT's choice: URGENT before ROUTINE, then the lowest number (R171). -/
def EventUnit.choose (u : EventUnit) : Option (Fin 12) :=
  match lowestSource (u.eligible &&& u.urgent) with
  | some i => some i
  | none => lowestSource u.eligible

/-- The level of the source at bit `i` (R166). -/
def EventUnit.levelOf (u : EventUnit) (i : Fin 12) : Level := if u.urgent.getLsbD i then .urgent else .routine

/-- Taking the source at bit `i` into service: its flag is cleared and its level pushed (R171). -/
def EventUnit.take (i : Fin 12) (u : EventUnit) : EventUnit :=
  { u with pending := u.pending &&& ~~~(BitVec.twoPow 12 i), stack := u.stack ++ [u.levelOf i] }.recompute

/-- The top level is removed (R172). -/
def EventUnit.pop (u : EventUnit) : EventUnit := { u with stack := u.stack.dropLast }.recompute

/-- Restart clearing of the event unit: flags and stack cleared, ALERT deasserted (R173). -/
def EventUnit.restart (u : EventUnit) : EventUnit := { u with pending := 0, stack := [], alert := false }

/-- A count that stops at its maximum (00_scope.md "Numbers and ranges"). -/
def saturate (max n : Nat) : Nat := min max (n + 1)

/-- The fault queue is full (R163). -/
def FaultQueue.full (q : FaultQueue) : Bool := decide (Config.faultDepth ≤ q.records.length)

/-- A record is offered: it takes the sequence number, and is kept or counted as discarded (R162, R163). -/
def FaultQueue.offer (r : FaultRecord) (q : FaultQueue) : FaultQueue :=
  if q.full then { q with overflow := saturate Config.byteCountMax q.overflow, sequence := q.sequence + 1 }
  else { q with records := q.records ++ [{ r with sequence := q.sequence }], sequence := q.sequence + 1 }

/-- A record with every optional field absent; the reporting rule fills in those it carries (R162). -/
def FaultRecord.of (k : FaultKind) : FaultRecord := ⟨0, k, none, none, none, none, none, none, none⟩

/-- To raise an event source (R166). -/
def State.raise (s : State) (e : EventSource) : State := { s with events := s.events.raise e }

/-- To log a fault: offer a record to the queue, and raise FAULT-OVERFLOW when it is discarded (R163). -/
def State.logFault (s : State) (r : FaultRecord) : State :=
  { s with
    faults := s.faults.offer r
    events := if s.faults.full then s.events.raise .faultOverflow else s.events }

end Sys2Proof.Machine
end

