-- ==== Sys2Proof/Machine/Ops.lean ====
section
/-! DEFINITION. The named operations over the bridge's registers, queues and records that the meanings share: sets, deferred
errors, barriers' wait sets, tags, the operation list, lanes, the response queue, and the triggers of a head offer. -/
namespace Sys2Proof.Machine

/-! ## Sets -/

/-- The set with `i` added. -/
def insertBit {n : Nat} (i : Nat) (v : BitVec n) : BitVec n := v ||| BitVec.twoPow n i

/-- The set with `i` removed. -/
def removeBit {n : Nat} (i : Nat) (v : BitVec n) : BitVec n := v &&& ~~~(BitVec.twoPow n i)

/-- The byte positions `first` to `first + count - 1`. -/
def spanSet (first count : Nat) : PosSet := ((BitVec.allOnes count).setWidth 32) <<< first

/-- The positions of word `w`: 8w to 8w + 7 (R2). -/
def wordSet (w : WordIx) : PosSet := spanSet (8 * w) 8

/-- The number of entries, records or lanes that pass a test. -/
def countFin (n : Nat) (p : Fin n → Bool) : Nat := ((List.finRange n).filter p).length

/-- The lowest-numbered entry, record or lane that passes a test. -/
def lowestFin (n : Nat) (p : Fin n → Bool) : Option (Fin n) := (List.finRange n).find? p

/-! ## Masters: tags, deferred errors, wait sets -/

/-- Every master's context changed by `f`. -/
def State.mapMasters (s : State) (f : MasterIx → MasterCtx → MasterCtx) : State :=
  { s with masters := Vector.ofFn fun m => f m s.masters[m] }

/-- Master `m`'s context changed by `f`. -/
def State.updateMaster (s : State) (m : MasterIx) (f : MasterCtx → MasterCtx) : State :=
  { s with masters := s.masters.set m (f s.masters[m]) }

/-- An error of kind `k` is recorded (R89). -/
def MasterCtx.record (k : DeferredKind) (c : MasterCtx) : MasterCtx :=
  { c with
    deferred := match c.deferred with
      | none => some ⟨k, 0⟩
      | some d => some { d with further := saturate Config.byteCountMax d.further } }

/-- An error is recorded against one master (R89). -/
def State.recordError (s : State) (m : MasterIx) (k : DeferredKind) : State := s.updateMaster m (·.record k)

/-- An error is recorded against each master of a set (R89). -/
def State.recordErrors (s : State) (set : MasterSet) (k : DeferredKind) : State :=
  s.mapMasters fun m c => if set.getLsbD m then c.record k else c

/-- Entry `e` leaves every barrier's wait set (R93). -/
def State.leaveWaitSets (s : State) (e : EntryIx) : State :=
  s.mapMasters fun _ c => { c with barrier := c.barrier.map fun b => { b with waitSet := removeBit e b.waitSet } }

/-- A tag joins its master's set when a request is taken (R143). -/
def State.addTag (s : State) (m : MasterIx) (t : Tag) : State :=
  s.updateMaster m fun c => { c with tags := insertBit t c.tags }

/-- A tag leaves its master's set at delivery (R146). -/
def State.removeTag (s : State) (m : MasterIx) (t : Tag) : State :=
  s.updateMaster m fun c => { c with tags := removeBit t c.tags }

/-- A barrier that has finished: its wait set is empty (R94). -/
def MasterCtx.finished (c : MasterCtx) : Bool :=
  match c.barrier with
  | some b => b.waitSet == 0
  | none => false

/-! ## Triggers of a head offer (R138) -/

/-- The events that bring a fresh offer of a waiting head. -/
inductive Wake where
  | entryChanged (line : Nat)
  | overlayLost (line : Nat)
  | readFreed
  | bitFreed
  | slotFreed
  deriving DecidableEq, Repr

/-- The triggers each wait names: any entry state change for a write (R26); an entry of its line, or a bit record freed,
for a bit operation (R79), while its refusal waits for a slot too (R96, R102, log entry 26); a read record or slot freed,
or its line's overlay, for a read (R66); a slot freed, whoever is granted it, for a barrier (R91, log entry 27). A wait for a
slot is also served by the grant of R145. -/
def HeadWait.wokenBy : HeadWait → Wake → Bool
  | .freeEntry _, .entryChanged _ => true
  | .bitOp l, .entryChanged l' | .slot (some l), .entryChanged l' => l == l'
  | .bitOp _, .bitFreed | .slot (some _), .bitFreed => true
  | .read _, .readFreed => true
  | .read _, .slotFreed | .barrier, .slotFreed => true
  | .read l, .overlayLost l' => l == l'
  | _, _ => false

/-- The line of the wait R79 gives the bit operation at the head: it lasts until the request leaves the head. -/
def HeadWait.bitLine : HeadWait → Option Nat
  | .bitOp l => some l
  | .slot l => l
  | .none | .freeEntry _ | .read _ | .barrier => Option.none

/-- The head waits for a slot (R140, R91). -/
def HeadWait.forSlot : HeadWait → Bool
  | .barrier | .slot _ => true
  | _ => false

/-- A trigger occurs: an offer is due when the head's wait names it (R138). -/
def State.wake (s : State) (w : Wake) : State :=
  { s with upstream := { s.upstream with offerDue := s.upstream.offerDue || s.upstream.headWait.wokenBy w } }

/-- An offer of the head is due: a request became the head, or the bridge entered CONFIG, RUN or HALTED (R138). -/
def State.offerFresh (s : State) : State :=
  { s with upstream := { s.upstream with offerDue := !s.upstream.intake.isEmpty } }

/-- The head is offered only in CONFIG, RUN or HALTED and while BUSRST is not asserted (R138, R148). -/
def State.examinable (s : State) : Bool :=
  (s.control.bridge == .config || s.control.bridge == .run || s.control.bridge == .halted) && !s.upstream.busrst

/-- The head's wait is set. -/
def State.headWaits (s : State) (w : HeadWait) : State :=
  { s with upstream := { s.upstream with headWait := w, offerDue := false } }

/-- The head leaves the intake, and the next request, now the head, is due an offer (R137, R138). -/
def State.popHead (s : State) : State :=
  { s with upstream := { s.upstream with
      intake := s.upstream.intake.tail, headWait := .none, offerDue := !s.upstream.intake.tail.isEmpty } }

/-! ## Response queue (R144) -/

/-- A slot is available (R144). -/
def State.slotAvailable (s : State) : Bool := decide (s.upstream.responses.length < Config.responseDepth)

/-- A response enters at the tail (R144). -/
def State.placeResponse (s : State) (r : Response) : State :=
  { s with upstream := { s.upstream with responses := s.upstream.responses ++ [r] } }

/-! ## Operation list (R42, R43) -/

/-- The kind of an operation. -/
def Work.kind : Work → OpKind
  | .drain k _ => .drain k
  | .fill _ => .fillRead
  | .bitop _ => .bitop
  | .scrub => .scrub

/-- What a fault record carries of an operation: its kind and queued-order (R162). -/
def Operation.label (o : Operation) : OpKind × BitVec 16 := (o.work.kind, o.queuedOrder)

/-- An operation is appended QUEUED at the tail, with the append counter's number (R43). -/
def State.appendOp (s : State) (work : Work) (line : Nat) : State :=
  { s with opList :=
      { ops := s.opList.ops ++ [⟨work, line, s.opList.counter, .queued⟩], counter := s.opList.counter + 1 } }

/-- The operations that pass a test stay, in their order (R43, R45). -/
def State.keepOps (s : State) (p : Operation → Bool) : State :=
  { s with opList := { s.opList with ops := s.opList.ops.filter p } }

/-- The operation a lane carries: the one IN-FLIGHT with that lane (R48). -/
def State.laneOp (s : State) (k : LaneIx) : Option Operation := s.opList.ops.find? fun o => o.phase == .inFlight k

/-- Lane `k`'s operation is removed from the list (R45). -/
def State.removeLaneOp (s : State) (k : LaneIx) : State := s.keepOps fun o => o.phase != .inFlight k

/-- A lane's state is set. -/
def State.setLane (s : State) (k : LaneIx) (l : Lane) : State := { s with lanes := s.lanes.set k l }

/-- The wait a command puts a lane in (R48). -/
def ArrayCmd.waitStep : ArrayCmd → LaneStep
  | .lineRead => .readWait
  | .lineWrite _ => .writeWait

/-- A lane hands a command to the array port and waits for its result (R48, R107). -/
def State.handOver (s : State) (k : LaneIx) (cmd : ArrayCmd) (line : Nat) : State :=
  { s with
    lanes := s.lanes.set k (.busy cmd.waitStep)
    port := { s.port with queue := s.port.queue ++ [⟨k, cmd, line⟩] } }

/-- The abort line is asserted exactly in ABORTING (R108). -/
def PortCondition.aborts : PortCondition → Bool
  | .aborting _ _ => true
  | _ => false

/-- The port's condition is set, and with it the abort line (R108). -/
def State.setPort (s : State) (c : PortCondition) : State :=
  { s with port := { s.port with condition := c, abortLine := c.aborts } }

/-- The bridge state is set. -/
def State.setBridge (s : State) (b : BridgeState) : State := { s with control := { s.control with bridge := b } }

end Sys2Proof.Machine
end

