-- ==== Sys2Proof/Machine/Operands.lean ====
section
/-! DEFINITION. How the bridge reads the operands it is given: the place of an address in its line and word (R2), the
capacity (R3, R4), the region lookup (R7-R11), the validation at START (R14), bytes within words (R1, R2), and the
values of payload bytes (R184). -/
namespace Sys2Proof.Machine

/-! ## Places (R2) -/

/-- The line index of a memory address. -/
def lineOf (a : Nat) : Nat := a / 32
/-- The byte position of an address within its line. -/
def posOf (a : Nat) : Nat := a % 32
/-- The word that holds a byte position. -/
def wordOfPos (p : Nat) : WordIx := ⟨p / 8 % 4, Nat.mod_lt _ (by decide)⟩
/-- The alignment check of a READ or WRITE: the span lies within one line (R139). A count of 0 names no span and fails, as
it does for a bit operation (log entry 15). -/
def inLine (a : UpAddr) (count : Nat) : Bool := decide (1 ≤ count ∧ posOf a.toNat + count ≤ 32)
/-- The alignment check of a bit operation: a count of 1 to 8, and a span within one word (R76, R139). -/
def inWord (a : UpAddr) (count : Nat) : Bool := decide (1 ≤ count ∧ a.toNat % 8 + count ≤ 8)

/-- Byte k of a data word, little-endian (R1). -/
def wordByte (w : DataWord) (k : Nat) : Byte := w.extractLsb' (8 * k) 8
/-- The byte at position `p` of four words (R2). -/
def byteAt (ws : Vector ReadWord 4) (p : Nat) : Byte := wordByte ws[wordOfPos p].data (p % 8)
/-- Word `w` of 32 bytes: byte k of the word is the byte at position 8w + k (R1, R2). -/
def lineWord (d : LineBytes) (w : WordIx) : DataWord :=
  (List.finRange 8).foldl
    (fun acc k => acc ||| ((d[8 * w.val + k.val]'(by omega)).setWidth 64 <<< (8 * k.val))) 0
/-- The four words of 32 bytes, word 0 carrying positions 0-7 (R53). -/
def lineWords (d : LineBytes) : Vector DataWord 4 := Vector.ofFn fun w => lineWord d w

/-- Bytes stored at positions from `p` on; every other position keeps its byte (R22). -/
def placeBytes (p : Nat) (bytes : List Byte) (d : LineBytes) : LineBytes :=
  Vector.ofFn fun i => if p ≤ i.val then bytes.getD (i.val - p) d[i] else d[i]

/-- Bytes of `upper` at the positions of `set`, bytes of `base` elsewhere (R38, R98). -/
def overlayBytes (set : PosSet) (upper base : LineBytes) : LineBytes :=
  Vector.ofFn fun i => if set.getLsbD i then upper[i] else base[i]

/-! ## Capacity (R3, R4) -/

/-- The capacity in lines of a capacity code. -/
def linesOfCode (c : Nat) : Nat := if c = 0 then 0 else 2048 * 2 ^ (c - 1)
/-- The capacity in lines. -/
def State.capacityLines (s : State) : Nat := linesOfCode s.regionMap.memorySize

/-! ## Region lookup (R7-R11) -/

/-- The size of a window in bytes (R5). -/
def Region.size (r : Region) : Nat := 4096 * 2 ^ r.sizeCode
/-- A descriptor matches a byte address (R7). -/
def Region.covers (r : Region) (a : Nat) : Bool := r.valid && decide (r.base ≤ a ∧ a < r.base + r.size)

/-- The result of a region lookup (R11). -/
inductive Lookup where
  | unmapped
  | denied (region : RegionIx) (cause : DenialCause)
  | mapped (address : Nat) (region : RegionIx) (attr : Attr)
  deriving DecidableEq, Repr

/-- The descriptor that matches; in RUN at most one does (R7), else the lowest-numbered (log entry 19). -/
def RegionMap.matching (m : RegionMap) (a : Nat) : Option RegionIx := lowestFin 8 fun n => m.regions[n].covers a

/-- The lookup: UNMAPPED, DENIED with its first cause, or MAPPED with the memory address (R8-R11). `writes` holds for a
WRITE or a bit operation. -/
def RegionMap.lookup (m : RegionMap) (master : MasterIx) (writes : Bool) (a : UpAddr) : Lookup :=
  match m.matching a.toNat with
  | none => .unmapped
  | some n =>
    let r := m.regions[n]
    if r.attr = .closed then .denied n .closed
    else if r.masters.getLsbD master = false then .denied n .master
    else if r.attr = .readOnly ∧ writes = true then .denied n .readOnly
    else .mapped (r.offset + (a.toNat - r.base)) n r.attr

/-! ## Validation at START (R14) -/

/-- The first check that fails, with the regions it reports (R14). -/
inductive ConfigFailure where
  | noCapacity
  | noRegion
  | baseAlignment (n : RegionIx)
  | beyondCapacity (n : RegionIx)
  | overlap (i j : RegionIx)
  deriving DecidableEq, Repr

/-- The lowest-numbered valid descriptor that fails a check. -/
def RegionMap.firstValid (m : RegionMap) (bad : Region → Bool) : Option RegionIx :=
  lowestFin 8 fun n => m.regions[n].valid && bad m.regions[n]

/-- Two valid windows share an upstream byte address (R14, check 5). -/
def Region.overlaps (a b : Region) : Bool :=
  a.valid && b.valid && decide (a.base < b.base + b.size ∧ b.base < a.base + a.size)

/-- The lowest-numbered later descriptor that overlaps descriptor `i`. -/
def RegionMap.overlapOf (m : RegionMap) (i : RegionIx) : Option RegionIx :=
  lowestFin 8 fun j => decide (i.val < j.val) && m.regions[i].overlaps m.regions[j]

/-- The overlapping pair with the lowest i and, for it, the lowest j. -/
def RegionMap.firstOverlap (m : RegionMap) : Option (RegionIx × RegionIx) :=
  (List.finRange 8).findSome? fun i => (m.overlapOf i).map fun j => (i, j)

/-- The five checks in order; none when validation passes (R14). -/
def RegionMap.validate (m : RegionMap) : Option ConfigFailure :=
  if m.memorySize = 0 then some .noCapacity
  else match m.firstValid (fun _ => true) with
  | none => some .noRegion
  | some _ =>
    match m.firstValid (fun r => r.base % r.size != 0) with
    | some n => some (.baseAlignment n)
    | none =>
      match m.firstValid (fun r => decide (32 * linesOfCode m.memorySize < r.offset + r.size)) with
      | some n => some (.beyondCapacity n)
      | none => m.firstOverlap.map fun p => .overlap p.1 p.2

/-! ## Bytes of the management port (R184) -/

/-- The value of bytes sent least significant byte first. -/
def leValue : List Byte → Nat
  | [] => 0
  | b :: bs => b.toNat + 256 * leValue bs

/-- A value as `n` bytes, least significant byte first. -/
def leBytes : Nat → Nat → List Byte
  | 0, _ => []
  | n + 1, v => BitVec.ofNat 8 v :: leBytes n (v / 256)

end Sys2Proof.Machine
end

