-- ==== Sys2Proof/Machine/CheckCode.lean ====
section
/-! DEFINITION. The check code of the array's words (R117-R119) and the CRC-8 of the management frames (R176). -/
namespace Sys2Proof.Machine

/-- The columns of data bits 0-55: the eight-bit values with exactly three 1-bits, rising (R117). -/
def columnsThree : List (BitVec 8) :=
  [7, 11, 13, 14, 19, 21, 22, 25, 26, 28, 35, 37, 38, 41, 42, 44, 49, 50, 52, 56] ++
  [67, 69, 70, 73, 74, 76, 81, 82, 84, 88, 97, 98, 100, 104, 112, 131, 133, 134, 137] ++
  [138, 140, 145, 146, 148, 152, 161, 162, 164, 168, 176, 193, 194, 196, 200, 208, 224]
/-- The columns of data bits 56-63: the eight smallest values with exactly five 1-bits (R117). -/
def columnsFive : List (BitVec 8) := [31, 47, 55, 59, 61, 62, 79, 87]
/-- The columns of the check bits 0-7 (R117). -/
def columnsOne : List (BitVec 8) := [1, 2, 4, 8, 16, 32, 64, 128]
/-- The 72 columns, position 0 first (R117). -/
def columns : List (BitVec 8) := columnsThree ++ columnsFive ++ columnsOne

/-- The combination of the columns of the bits of a word that are 1 (R117), from bit `i` on. -/
def combine (bit : Nat → Bool) : Nat → List (BitVec 8) → BitVec 8
  | _, [] => 0
  | i, c :: cs => (if bit i then c else 0) ^^^ combine bit (i + 1) cs

/-- The check bits of 64 data bits: check bit i is the parity of the set data bits whose column has bit i (R118). -/
def checkBits (d : DataWord) : BitVec 8 := combine d.getLsbD 0 (columnsThree ++ columnsFive)

/-- The 72-bit word the port presents: data at 0-63, check bits at 64-71 (R1, R118). -/
def encodeWord (d : DataWord) : CodedWord := checkBits d ++ d

/-- The syndrome of a word read (R119). -/
def syndrome (w : CodedWord) : BitVec 8 := combine w.getLsbD 0 columns

/-- The bit position whose column a syndrome equals, if one does (R119). -/
def positionOf (syn : BitVec 8) : Option Nat := columns.findIdx? (· == syn)

/-- The classification of a word and the data handed to the lane (R119). -/
def classify (w : CodedWord) : ReadWord :=
  let d := w.setWidth 64
  if syndrome w = 0 then ⟨d, .clean⟩
  else match positionOf (syndrome w) with
  | some q => ⟨if q < 64 then d ^^^ BitVec.twoPow 64 q else d, .corrected q⟩
  | none => ⟨d, .uncorrectable⟩

/-- One shift of the CRC-8 register (R176). -/
def crcShift (r : BitVec 8) : BitVec 8 := if r.getLsbD 7 then (r <<< 1) ^^^ 7 else r <<< 1

/-- Eight shifts (R176). -/
def crcByte (r b : BitVec 8) : BitVec 8 :=
  crcShift (crcShift (crcShift (crcShift (crcShift (crcShift (crcShift (crcShift (r ^^^ b))))))))

/-- The CRC-8 value of bytes in frame order, register starting at 0 (R176). -/
def crc8 (bytes : List Byte) : Byte := bytes.foldl crcByte 0

end Sys2Proof.Machine
end

