-- ==== Sys2Proof/Machine/Buffer.lean ====
section
/-! DEFINITION. The combine buffer: overlay, close requests and commits, taking a write, pressure and the free-entry wait
(02, R16-R41), the HELD state, folding and releasing (06, R96-R104). -/
namespace Sys2Proof.Machine

/-! ## Looking at the entries -/

/-- An entry in COMMITTED, DRAINING or HELD is its line's predecessor (R18). -/
def EntryState.isPredecessor : EntryState → Bool
  | .committed | .draining | .held => true
  | .free | .opened => false

/-- The entry of line `L` whose state passes a test; by R18 there is at most one for each test used. -/
def CombineBuffer.entryOf (b : CombineBuffer) (p : EntryState → Bool) (L : Nat) : Option EntryIx :=
  lowestFin 16 fun i => p b.entries[i].state && b.entries[i].line == some L

/-- The OPEN entry of a line (R18). -/
def CombineBuffer.openEntry (b : CombineBuffer) (L : Nat) : Option EntryIx := b.entryOf (· == .opened) L
/-- The predecessor of a line (R18). -/
def CombineBuffer.predecessor (b : CombineBuffer) (L : Nat) : Option EntryIx := b.entryOf (·.isPredecessor) L
/-- The HELD entry of a line. -/
def CombineBuffer.heldEntry (b : CombineBuffer) (L : Nat) : Option EntryIx := b.entryOf (· == .held) L
/-- Some entry holds bytes of the line. -/
def CombineBuffer.hasEntry (b : CombineBuffer) (L : Nat) : Bool := (b.entryOf (· != .free) L).isSome

/-- The number of entries in a state. -/
def CombineBuffer.count (b : CombineBuffer) (st : EntryState) : Nat := countFin 16 fun i => b.entries[i].state == st
/-- FREE-ENTRIES (R41). -/
def CombineBuffer.freeCount (b : CombineBuffer) : Nat := b.count .free
/-- The lowest-numbered FREE entry (R23). -/
def CombineBuffer.lowestFree (b : CombineBuffer) : Option EntryIx := lowestFin 16 fun i => b.entries[i].state == .free
/-- The FREE count is at or below CLOSE-AHEAD (R25, R49). -/
def CombineBuffer.short (b : CombineBuffer) : Bool := decide (b.freeCount ≤ b.closeAhead)
/-- The oldest OPEN entry that is not close-pending (R20). -/
def CombineBuffer.oldestOpen (b : CombineBuffer) : Option EntryIx :=
  b.openOrder.find? fun e => b.entries[e].closePending == false
/-- All 16 entries are HELD (R27). -/
def CombineBuffer.allHeld (b : CombineBuffer) : Bool := b.count .held == 16

/-- The valid set and bytes of an entry, or none. -/
def CombineBuffer.bytesOf (b : CombineBuffer) : Option EntryIx → PosSet × LineBytes
  | some e => (b.entries[e].valid, b.entries[e].data)
  | none => (0, Vector.replicate 32 0)

/-- The overlay of a line: the predecessor's bytes, with the OPEN entry's over them (R38). -/
def CombineBuffer.overlay (b : CombineBuffer) (L : Nat) : PosSet × LineBytes :=
  let p := b.bytesOf (b.predecessor L)
  let o := b.bytesOf (b.openEntry L)
  (p.1 ||| o.1, overlayBytes o.1 o.2 (overlayBytes p.1 p.2 (Vector.replicate 32 0)))

/-! ## Changing the entries -/

/-- Entry `e` is replaced. -/
def State.setEntry (s : State) (e : EntryIx) (x : Entry) : State :=
  { s with buffer := { s.buffer with entries := s.buffer.entries.set e x } }

/-- Entry `e` leaves the open order list (R20). -/
def State.leaveOpenOrder (s : State) (e : EntryIx) : State :=
  { s with buffer := { s.buffer with openOrder := s.buffer.openOrder.filter (· != e) } }

/-- Entry `e` of line `L` becomes FREE, leaves the open order list and every wait set (R35, R93, R98, R102). -/
def State.freeEntry (s : State) (e : EntryIx) (L : Nat) : State :=
  (((s.setEntry e Entry.free).leaveOpenOrder e).leaveWaitSets e).wake (.entryChanged L)

/-- A FULL-WRITE when the valid set holds all 32 positions, and a MERGE-WRITE otherwise (R30, R103). -/
def Entry.drainKind (x : Entry) : DrainKind := if x.valid = BitVec.allOnes 32 then .fullWrite else .mergeWrite

/-- OPEN entry `e` of line `L` commits, and its drain is appended (R30). -/
def State.commit (s : State) (e : EntryIx) (L : Nat) : State :=
  let x := s.buffer.entries[e]
  (((s.setEntry e { x with state := .committed, ageTimer := none, closePending := false }).leaveOpenOrder e).appendOp
    (.drain x.drainKind e) L).wake (.entryChanged L)

/-- A close request naming entry `e` (R29): no effect unless it is OPEN and not close-pending; it commits when its line
has no predecessor, and becomes close-pending otherwise. -/
def State.closeRequest (s : State) (e : EntryIx) : State :=
  let x := s.buffer.entries[e]
  match x.line with
  | none => s
  | some L =>
    if x.state = .opened ∧ x.closePending = false then
      match s.buffer.predecessor L with
      | none => s.commit e L
      | some _ => s.setEntry e { x with closePending := true }
    else s

/-- A close request on an entry that may be absent. -/
def State.closeRequest? (s : State) : Option EntryIx → State
  | some e => s.closeRequest e
  | none => s

/-- Several entries close-requested one at a time, in the order given (R31). -/
def State.closeAll (s : State) (es : List EntryIx) : State := es.foldl State.closeRequest s

/-! ## Taking a write (R21-R27, R99) -/

/-- Bytes of master `m` stored from position `p` on (R22, R99). -/
def Entry.store (p : Nat) (bytes : List Byte) (m : MasterIx) (x : Entry) : Entry :=
  { x with
    valid := x.valid ||| spanSet p bytes.length
    data := placeBytes p bytes x.data
    contributors := insertBit m x.contributors }

/-- A write's bytes go into entry `e` (R22). -/
def State.storeInto (s : State) (e : EntryIx) (p : Nat) (bytes : List Byte) (m : MasterIx) : State :=
  s.setEntry e (s.buffer.entries[e].store p bytes m)

/-- A write absorbed into HELD entry `e`: LINE-HELD is recorded against the writing master (R99). -/
def State.absorb (s : State) (e : EntryIx) (p : Nat) (bytes : List Byte) (m : MasterIx) : State :=
  (s.storeInto e p bytes m).recordError m .lineHeld

/-- The age timer an allocation starts: AGE-LIMIT, or stopped when it is 0 (R23). -/
def CombineBuffer.newTimer (b : CombineBuffer) : Option Nat := if b.ageLimit = 0 then none else some b.ageLimit

/-- FREE entry `e` is allocated for line `L` with a write's bytes (R20, R23). -/
def State.allocate (s : State) (e : EntryIx) (L p : Nat) (bytes : List Byte) (m : MasterIx) : State :=
  let x : Entry := { Entry.free with
    state := .opened, line := some L, openedOrder := some s.buffer.counter, ageTimer := s.buffer.newTimer }
  { s with buffer := { s.buffer with
      entries := s.buffer.entries.set e (x.store p bytes m)
      openOrder := s.buffer.openOrder ++ [e]
      counter := s.buffer.counter + 1 } }.wake (.entryChanged L)

/-- Checks 1 and 2 after a write into OPEN entry `e`: full, then DIRECT (R24, R12). -/
def State.afterWrite (s : State) (e : EntryIx) (attr : Attr) : State :=
  let s1 := if s.buffer.entries[e].valid = BitVec.allOnes 32 then s.closeRequest e else s
  if attr = .direct then s1.closeRequest e else s1

/-- The pressure check after an allocation (R25). -/
def State.pressure (s : State) : State := if s.buffer.short then s.closeRequest? s.buffer.oldestOpen else s

/-- BUFFER-STUCK has been raised in the wait the head is in (R27). -/
def HeadWait.stuck : HeadWait → Bool
  | .freeEntry b => b
  | _ => false

/-- A write that finds no FREE entry waits: BUFFER-STUCK once per wait when all entries are HELD, and the oldest OPEN
entry not close-pending is close-requested; that change brings no further offer at this event (R26, R27). -/
def State.freeEntryWait (s : State) : State :=
  let before := s.upstream.headWait.stuck
  let held := s.buffer.allHeld
  let s1 := if held && !before then s.raise .bufferStuck else s
  (s1.closeRequest? s1.buffer.oldestOpen).headWaits (.freeEntry (before || held))

/-- A write of master `m` to line `L` is offered (R21): into the OPEN entry, absorbed into the HELD entry, into a newly
allocated entry, or left waiting. An offer that takes the waiting write raises no BUFFER-STUCK, also when all 16 entries are
HELD at it for the first time in the wait (the model's choice beside R27, log entry 25). -/
def State.offerWrite (s : State) (L p : Nat) (bytes : List Byte) (m : MasterIx) (attr : Attr) : State :=
  match s.buffer.openEntry L with
  | some e => ((s.storeInto e p bytes m).afterWrite e attr).popHead
  | none =>
    match s.buffer.heldEntry L with
    | some h => (s.absorb h p bytes m).popHead
    | none =>
      match s.buffer.lowestFree with
      | some e => (((s.allocate e L p bytes m).afterWrite e attr).pressure).popHead
      | none => s.freeEntryWait

/-! ## The result of a drain (R35, R36, R96-R98) -/

/-- A close-pending successor of line `L` commits when its predecessor has become FREE (R35). -/
def State.commitSuccessor (s : State) (L : Nat) : State :=
  match s.buffer.openEntry L with
  | some f => if s.buffer.entries[f].closePending = true then s.commit f L else s
  | none => s

/-- The drain of DRAINING entry `e` succeeds (R35). A result for an entry that is not DRAINING does not arise (R36, log
entry 17). -/
def State.drainSucceeds (s : State) (e : EntryIx) : State :=
  let x := s.buffer.entries[e]
  match x.line with
  | none => s
  | some L =>
    if x.state = .draining then
      ((s.freeEntry e L).wake (.overlayLost L)).commitSuccessor L
    else s

/-- The OPEN entry of line `L`, if any, is folded into the newly HELD entry `e` (R98). -/
def State.fold (s : State) (e : EntryIx) (L : Nat) : State :=
  match s.buffer.openEntry L with
  | none => s
  | some f =>
    let x := s.buffer.entries[e]
    let y := s.buffer.entries[f]
    ((s.setEntry e { x with
        data := overlayBytes y.valid y.data x.data
        valid := x.valid ||| y.valid
        contributors := x.contributors ||| y.contributors }).recordErrors
      (y.contributors &&& ~~~x.contributors) .lineHeld).freeEntry f L

/-- The LINE-HELD fault (R97). -/
def lineHeldFault (L : Nat) (e : EntryIx) (reason : HeldReason) (op : OpKind × BitVec 16) (word : Option WordIx) :
    FaultRecord :=
  { FaultRecord.of (.lineHeld reason e) with line := some L, word := word, operation := some op }

/-- The drain of DRAINING entry `e` fails (R96): HELD, LINE-HELD recorded against its contributors, its successor folded,
wait sets shrunk, LINE-HELD logged and raised. -/
def State.drainFails (s : State) (e : EntryIx) (reason : HeldReason) (op : OpKind × BitVec 16) (word : Option WordIx) :
    State :=
  let x := s.buffer.entries[e]
  match x.line with
  | none => s
  | some L =>
    if x.state = .draining then
      let s1 := (s.setEntry e { x with
        state := .held, heldReason := some reason, closePending := false, ageTimer := none }).wake (.entryChanged L)
      let s2 := (s1.recordErrors x.contributors .lineHeld).fold e L
      ((s2.leaveWaitSets e).logFault (lineHeldFault L e reason op word)).raise .lineHeld
    else s

/-! ## Releasing a held line (R102-R104) -/

/-- RELEASE DISCARD of HELD entry `e` (R102). -/
def State.discard (s : State) (e : EntryIx) : State :=
  match s.buffer.entries[e].line with
  | none => s
  | some L => (s.freeEntry e L).wake (.overlayLost L)

/-- RELEASE RETRY or FORCE of HELD entry `e`: COMMITTED again, and a drain of the kind given is appended (R103, R104). -/
def State.recommit (s : State) (e : EntryIx) (kind : DrainKind) : State :=
  let x := s.buffer.entries[e]
  match x.line with
  | none => s
  | some L =>
    ((s.setEntry e { x with state := .committed, heldReason := none }).appendOp (.drain kind e) L).wake (.entryChanged L)

end Sys2Proof.Machine
end

