-- ==== Sys2Proof/Machine/Records.lean ====
section
/-! DEFINITION. The read unit, the bit operation unit and the barriers as the intake head and the response queue see them:
taking a read (R62-R66), admitting a bit operation (R76-R80), taking a barrier (R91, R92), and placing the responses of
READY records and finished barriers (R70, R84, R94). -/
namespace Sys2Proof.Machine

/-! ## Reads -/

/-- The positions a read asks for. -/
def ReadReq.requested (r : ReadReq) : PosSet := spanSet r.first r.count

/-- The read record is FREE. -/
def ReadRec.isFree : ReadRec → Bool
  | .free => true
  | _ => false

/-- A read record is replaced. -/
def State.setRead (s : State) (i : ReadIx) (x : ReadRec) : State := { s with reads := s.reads.set i x }

/-- The last operation of a line in list order (R65). -/
def OperationList.lastOf (l : OperationList) (L : Nat) : Option Operation := l.ops.reverse.find? fun o => o.line == L

/-- A read can join an operation: a QUEUED FILL-READ with fewer than 8 readers (R65). -/
def Operation.joinable (o : Operation) : Bool :=
  match o.work, o.phase with
  | .fill readers, .queued => decide (readers.length < Config.readersDepth)
  | _, _ => false

/-- `r` joins the readers list of an operation (R65). -/
def Operation.join (r : ReadIx) (o : Operation) : Operation :=
  match o.work with
  | .fill readers => { o with work := .fill (readers ++ [r]) }
  | _ => o

/-- The first operation of a list that passes a test is changed. -/
def modifyFirst (p : Operation → Bool) (f : Operation → Operation) : List Operation → List Operation
  | [] => []
  | o :: os => if p o then f o :: os else o :: modifyFirst p f os

/-- The last operation of a line is changed. -/
def OperationList.modifyLast (l : OperationList) (L : Nat) (f : Operation → Operation) : OperationList :=
  { l with ops := (modifyFirst (fun o => o.line == L) f l.ops.reverse).reverse }

/-- Record `r` joins the line's last operation when that is a QUEUED fill with room, and otherwise queues a fill (R65). -/
def State.attachFill (s : State) (r : ReadIx) (L : Nat) : State :=
  match s.opList.lastOf L with
  | some o =>
    if o.joinable then { s with opList := s.opList.modifyLast L (·.join r) } else s.appendOp (.fill [r]) L
  | none => s.appendOp (.fill [r]) L

/-- The bytes of the requested positions, lowest first. -/
def spanBytes (d : LineBytes) (first count : Nat) : List Byte :=
  (List.range count).map fun i => d.toList.getD (first + i) 0

/-- A read of line `L` is offered (R62): answered at once when its positions are all in the overlay and a slot is
available (R63), taken into a record when they are not and a record is FREE (R64, R65), and left waiting otherwise. -/
def State.offerRead (s : State) (L p n : Nat) (m : MasterIx) (t : Tag) : State :=
  let o := s.buffer.overlay L
  if spanSet p n &&& ~~~o.1 = 0 then
    if s.slotAvailable then ((s.placeResponse (.data m t .ok (spanBytes o.2 p n))).addTag m t).popHead
    else s.headWaits (.read L)
  else
    match lowestFin 8 fun i => s.reads[i].isFree with
    | some r => (((s.setRead r (.waitFill ⟨m, t, L, p, n, o.1, o.2⟩)).attachFill r L).addTag m t).popHead
    | none => s.headWaits (.read L)

/-- The lowest-numbered READY read record (R70). -/
def State.readyRead (s : State) : Option ReadIx := lowestFin 8 fun i =>
  match s.reads[i] with
  | .ready _ _ _ => true
  | _ => false

/-- READY read record `i` places its response and becomes FREE (R70). -/
def State.placeRead (s : State) (i : ReadIx) : State :=
  match s.reads[i] with
  | .ready r st d => ((s.placeResponse (.data r.master r.tag st d)).setRead i .free).wake .readFreed
  | _ => s

/-! ## Bit operations -/

/-- The new byte of a bit operation, from the old byte and the operand byte (R76). -/
def applyBits : BitKind → Byte → Byte → Byte
  | .setBits, b, x => b ||| x
  | .clearBits, b, x => b &&& ~~~x
  | .flipBits, b, x => b ^^^ x

/-- The bit operation record is FREE. -/
def BitRec.isFree : BitRec → Bool
  | .free => true
  | _ => false

/-- A bit operation record is replaced. -/
def State.setBit (s : State) (i : BitIx) (x : BitRec) : State := { s with bitops := s.bitops.set i x }

/-- A bit operation of line `L` whose line has no HELD entry is offered (R78, cases 2 to 4; case 1 is the refusal of
check 6). -/
def State.offerBitOp (s : State) (L p : Nat) (kind : BitKind) (operand : List Byte) (m : MasterIx) (t : Tag) : State :=
  if s.buffer.hasEntry L then (s.closeRequest? (s.buffer.openEntry L)).headWaits (.bitOp L)
  else
    match lowestFin 4 fun i => s.bitops[i].isFree with
    | none => s.headWaits (.bitOp L)
    | some r =>
      (((s.setBit r (.queued ⟨m, t, kind, L, wordOfPos p, p, operand⟩)).appendOp (.bitop r) L).addTag m t).popHead

/-- The lowest-numbered READY bit operation record (R84). -/
def State.readyBit (s : State) : Option BitIx := lowestFin 4 fun i =>
  match s.bitops[i] with
  | .ready _ _ _ => true
  | _ => false

/-- READY bit operation record `i` places its response and becomes FREE (R84). -/
def State.placeBit (s : State) (i : BitIx) : State :=
  match s.bitops[i] with
  | .ready b st d => ((s.placeResponse (.oldData b.master b.tag st d)).setBit i .free).wake .bitFreed
  | _ => s

/-! ## Barriers -/

/-- An entry on its way to the array: OPEN, COMMITTED or DRAINING (R91). -/
def EntryState.onItsWay : EntryState → Bool
  | .opened | .committed | .draining => true
  | .free | .held => false

/-- Entry `e` belongs to the wait set of a barrier of master `m` formed now (R91). -/
def CombineBuffer.waitsFor (b : CombineBuffer) (m : MasterIx) (e : EntryIx) : Bool :=
  b.entries[e].state.onItsWay && b.entries[e].contributors.getLsbD m

/-- The wait set of a barrier of master `m` formed now (R91). -/
def CombineBuffer.waitSet (b : CombineBuffer) (m : MasterIx) : EntrySet :=
  (List.finRange 16).foldl (fun set e => if b.waitsFor m e then insertBit e set else set) 0

/-- The BARRIER-DONE response of master `m` with tag `t` enters the queue: it reports the deferred error, which is removed
at the same event, and the barrier is removed (R90, R92, R94). -/
def State.answerBarrier (s : State) (m : MasterIx) (t : Tag) : State :=
  (s.placeResponse (.barrierDone m t s.masters[m].deferred)).updateMaster m fun c =>
    { c with barrier := none, deferred := none }

/-- A BARRIER of a master without one is offered (R91): answered at once when its wait set is empty and a slot is
available (R92), left waiting when there is none, and recorded otherwise, its OPEN entries close-requested in open order. -/
def State.offerBarrier (s : State) (m : MasterIx) (t : Tag) : State :=
  let w := s.buffer.waitSet m
  if w = 0 then
    if s.slotAvailable then ((s.answerBarrier m t).addTag m t).popHead else s.headWaits .barrier
  else
    let s1 := s.updateMaster m fun c => { c with barrier := some ⟨t, w⟩ }
    ((s1.closeAll (s1.buffer.openOrder.filter fun e => w.getLsbD e)).addTag m t).popHead

/-- The bridge states in which a finished barrier may place its response (R94). -/
def BridgeState.answersBarriers : BridgeState → Bool
  | .run | .quiescing | .quiesced | .config => true
  | .halted | .restarting => false

/-- The lowest-numbered master with a finished barrier (R94). -/
def State.finishedBarrier (s : State) : Option MasterIx := lowestFin 8 fun m => s.masters[m].finished

/-- Master `m`'s finished barrier places its response (R94). -/
def State.placeBarrier (s : State) (m : MasterIx) : State :=
  match s.masters[m].barrier with
  | some b => s.answerBarrier m b.tag
  | none => s

end Sys2Proof.Machine
end

