-- ==== Sys2Proof/Machine/Upstream.lean ====
section
/-! DEFINITION. The upstream port (09): the head checks of R139, refusals (R140, R141), the slot grants of R145, arrivals
(R137), delivery (R146) and the bus reset (R147). -/
namespace Sys2Proof.Machine

/-! ## Refusals -/

/-- A READ, bit operation or BARRIER is refused (R140): its REFUSED response needs a slot, and a TAG-CLASH fault is logged
when the response enters the queue; without a slot the request enters the wait `wait` (R79, R91; log entries 26, 27). -/
def State.refuse (s : State) (m : MasterIx) (t : Tag) (addr : Option UpAddr) (kind : ReqKind) (st : RefusalStatus)
    (wait : HeadWait) : State :=
  if s.slotAvailable then
    let s1 := s.placeResponse (.refused m t st)
    (if st = .tagClash then
      s1.logFault { FaultRecord.of (.tagClash kind) with master := some m, tag := some t, address := addr }
     else s1).popHead
  else s.headWaits wait

/-- A WRITE is refused (R141): fault, deferred error of the same kind, WRITE-DROPPED, and the head leaves. -/
def State.dropWrite (s : State) (m : MasterIx) (addr : UpAddr) (fault : FaultKind) (kind : DeferredKind) : State :=
  ((((s.logFault { FaultRecord.of fault with master := some m, address := some addr }).recordError m kind).raise
    .writeDropped)).popHead

/-! ## The checks of R139 -/

/-- Check 1: the status a non-write is refused with outside RUN. -/
def BridgeState.headRefusal : BridgeState → Option RefusalStatus
  | .config => some .notRunning
  | .halted => some .halted
  | _ => none

/-- Check 2: the tag is in the master's tag set. -/
def State.tagHeld (s : State) (m : MasterIx) (t : Tag) : Bool := s.masters[m].tags.getLsbD t

/-- A READ at the head goes through checks 1 to 5 and is refused or offered to the read unit (R139). -/
def State.examineRead (s : State) (m : MasterIx) (t : Tag) (a : UpAddr) (n : Nat) : State :=
  match s.control.bridge.headRefusal with
  | some st => s.refuse m t (some a) .read st (.slot none)
  | none =>
    if s.tagHeld m t then s.refuse m t (some a) .read .tagClash (.slot none)
    else if inLine a n = false then s.refuse m t (some a) .read .misaligned (.slot none)
    else match s.regionMap.lookup m false a with
    | .unmapped => s.refuse m t (some a) .read .unmapped (.slot none)
    | .denied _ _ => s.refuse m t (some a) .read .denied (.slot none)
    | .mapped addr _ _ => s.offerRead (lineOf addr) (posOf addr) n m t

/-- A WRITE at the head goes through checks 1, 3, 4 and 5 and is dropped or offered to the combine buffer (R139, R141). -/
def State.examineWrite (s : State) (m : MasterIx) (a : UpAddr) (bytes : List Byte) : State :=
  match s.control.bridge.headRefusal with
  | some _ => s.dropWrite m a (.writeNotRunning s.control.bridge) .writeNotRunning
  | none =>
    if inLine a bytes.length = false then
      s.dropWrite m a (.writeMisaligned (posOf a.toNat) bytes.length) .writeMisaligned
    else match s.regionMap.lookup m true a with
    | .unmapped => s.dropWrite m a (.writeUnmapped bytes.length) .writeUnmapped
    | .denied n cause => s.dropWrite m a (.writeDenied cause n) .writeDenied
    | .mapped addr _ attr => s.offerWrite (lineOf addr) (posOf addr) bytes m attr

/-- A bit operation at the head goes through all the checks (R139, R78); check 3 refuses a count outside 1 to 8 too (R76).
Refused with LINE-HELD and without a slot, it waits for its line as well (R79, R96, R102; log entry 26). -/
def State.examineBitOp (s : State) (k : BitKind) (m : MasterIx) (t : Tag) (a : UpAddr) (operand : List Byte) : State :=
  match s.control.bridge.headRefusal with
  | some st => s.refuse m t (some a) (.bits k) st (.slot s.upstream.headWait.bitLine)
  | none =>
    if s.tagHeld m t then s.refuse m t (some a) (.bits k) .tagClash (.slot s.upstream.headWait.bitLine)
    else if inWord a operand.length = false then
      s.refuse m t (some a) (.bits k) .misaligned (.slot s.upstream.headWait.bitLine)
    else match s.regionMap.lookup m true a with
    | .unmapped => s.refuse m t (some a) (.bits k) .unmapped (.slot s.upstream.headWait.bitLine)
    | .denied _ _ => s.refuse m t (some a) (.bits k) .denied (.slot s.upstream.headWait.bitLine)
    | .mapped addr _ _ =>
      match s.buffer.heldEntry (lineOf addr) with
      | some _ => s.refuse m t (some a) (.bits k) .lineHeld (.slot (some (lineOf addr)))
      | none => s.offerBitOp (lineOf addr) (posOf addr) k operand m t

/-- A BARRIER at the head: checks 1, 2 and 6, then its master context (R139, R91). -/
def State.examineBarrier (s : State) (m : MasterIx) (t : Tag) : State :=
  match s.control.bridge.headRefusal with
  | some st => s.refuse m t none .barrier st .barrier
  | none =>
    if s.tagHeld m t then s.refuse m t none .barrier .tagClash .barrier
    else match s.masters[m].barrier with
    | some _ => s.refuse m t none .barrier .busy .barrier
    | none => s.offerBarrier m t

/-- The head request is offered: every check of R139 afresh, from the first. -/
def State.offerHead (s : State) : State :=
  match s.upstream.intake with
  | [] => s
  | .read m t a n :: _ => s.examineRead m t a n
  | .write m _ a bytes :: _ => s.examineWrite m a bytes
  | .bitOp k m t a operand :: _ => s.examineBitOp k m t a operand
  | .barrier m t :: _ => s.examineBarrier m t

/-! ## What is due at the upstream side -/

/-- The steps the bridge takes by itself when they are due (log entry 2). -/
inductive Internal where
  | placeRead (i : ReadIx)
  | placeBit (i : BitIx)
  | placeBarrier (m : MasterIx)
  | offer
  | dispatch
  | issue
  | quiesced
  | clear
  deriving DecidableEq, Repr

/-- An offer of the head is due: the head may be examined, and a trigger of R138 has occurred or the head waits for a
slot that is available (R145, order 4). -/
def State.offerIsDue (s : State) : Bool :=
  s.examinable && !s.upstream.intake.isEmpty &&
    (s.upstream.offerDue || (s.upstream.headWait.forSlot && s.slotAvailable))

/-- A master's finished barrier that may take a slot now (R94, R145). -/
def State.barrierDue (s : State) : Option MasterIx :=
  if s.control.bridge.answersBarriers then s.finishedBarrier else none

/-- The next response that takes a slot, in the order of R145: read records, bit operation records, barriers. -/
def State.nextGrant (s : State) : Option Internal :=
  if s.slotAvailable then
    match s.readyRead with
    | some i => some (.placeRead i)
    | none =>
      match s.readyBit with
      | some i => some (.placeBit i)
      | none => s.barrierDue.map .placeBarrier
  else none

/-- The next upstream step due: a slot grant, then the head (R145). -/
def State.nextUpstream (s : State) : Option Internal :=
  match s.nextGrant with
  | some i => some i
  | none => if s.offerIsDue then some .offer else none

/-- An upstream step is taken. -/
def State.runUpstream (s : State) : Internal → State
  | .placeRead i => s.placeRead i
  | .placeBit i => s.placeBit i
  | .placeBarrier m => s.placeBarrier m
  | .offer => s.offerHead
  | .dispatch | .issue | .quiesced | .clear => s

/-- Upstream steps are taken until none is due; the first argument bounds their number (log entry 2). -/
def State.serveUpstream : Nat → State → State
  | 0, s => s
  | n + 1, s =>
    match s.nextUpstream with
    | some i => State.serveUpstream n (s.runUpstream i)
    | none => s

/-! ## Arrival and delivery -/

/-- The port accepts an arrival: fewer than 8 requests, not RESTARTING, BUSRST not asserted (R137). -/
def State.accepts (s : State) : Bool :=
  decide (s.upstream.intake.length < Config.intakeDepth) && s.control.bridge != .restarting && !s.upstream.busrst

/-- A request joins the tail; at an empty queue it becomes the head, and an offer is due (R137, R138). -/
def State.arrive (s : State) (r : Request) : State :=
  { s with upstream := { s.upstream with
      intake := s.upstream.intake ++ [r], offerDue := s.upstream.offerDue || s.upstream.intake.isEmpty } }

/-- The tag a delivery releases: of a response to a taken request (R143). -/
def Response.taken : Response → Option (MasterIx × Tag)
  | .data m t _ _ | .oldData m t _ _ | .barrierDone m t _ => some (m, t)
  | .refused _ _ _ => none

/-- The response at the head is delivered, unless BUSRST is asserted or there is none (R146, R148). -/
def State.deliver (s : State) : State :=
  match s.upstream.responses with
  | [] => s
  | r :: rs =>
    if s.upstream.busrst then s
    else
      let s1 := { s with upstream := { s.upstream with responses := rs } }.wake .slotFreed
      match r.taken with
      | some (m, t) => s1.removeTag m t
      | none => s1

/-! ## Bus reset (R147, R60, R71, R85, R88) -/

/-- An operation BUSRST removes: a QUEUED fill or BITOP (R60). -/
def Operation.busResettable (o : Operation) : Bool :=
  match o.work, o.phase with
  | .fill _, .queued => true
  | .bitop _, .queued => true
  | _, _ => false

/-- An IN-FLIGHT fill names read record `i` (R71). -/
def OperationList.inFlightFillOf (l : OperationList) (i : ReadIx) : Bool :=
  l.ops.any fun o =>
    match o.work, o.phase with
    | .fill readers, .inFlight _ => decide (i ∈ readers)
    | _, _ => false

/-- BUSRST at a read record (R71); `flying` holds when its fill is IN-FLIGHT. -/
def ReadRec.busReset (flying : Bool) : ReadRec → ReadRec
  | .waitFill r => if flying then .orphaned r else .free
  | .orphaned r => .orphaned r
  | .ready _ _ _ => .free
  | .free => .free

/-- BUSRST at a bit operation record (R85). -/
def BitRec.busReset : BitRec → BitRec
  | .queued _ => .free
  | .inFlight b _ => .orphaned b
  | .orphaned b => .orphaned b
  | .ready _ _ _ => .free
  | .free => .free

/-- BUSRST is asserted (R147): intake, responses and tag sets emptied, barriers and deferred errors removed, records freed
or ORPHANED, QUEUED fills and BITOPs removed, BUS-RESET raised. -/
def State.busReset (s : State) : State :=
  { s with
    upstream := ⟨[], .none, false, [], true⟩
    reads := Vector.ofFn fun i => s.reads[i].busReset (s.opList.inFlightFillOf i)
    bitops := Vector.ofFn fun i => s.bitops[i].busReset
    opList := { s.opList with ops := s.opList.ops.filter fun o => !o.busResettable }
    masters := Vector.replicate 8 MasterCtx.reset
    events := s.events.raise .busReset }

end Sys2Proof.Machine
end

