-- ==== Sys2Proof/Machine/Lanes.lean ====
section
/-! DEFINITION. The lane arbiter and the taking of an operation (03, R46, R49-R51), and the issue of an array command
(07, R108). -/
namespace Sys2Proof.Machine

/-! ## Eligibility and choice -/

/-- The operation at place `i` is eligible: QUEUED, and no earlier operation of its line is in the list (R46). -/
def eligibleAt (ops : List Operation) (i : Nat) : Bool :=
  match ops[i]? with
  | some o => o.phase == .queued && (ops.take i).all fun e => e.line != o.line
  | none => false

/-- The classes of R49's table. -/
inductive ArbClass where
  | fetch | drain | scrub
  deriving DecidableEq, Repr

/-- The class of an operation (R49). -/
def Work.arbClass : Work → ArbClass
  | .drain _ _ => .drain
  | .fill _ | .bitop _ => .fetch
  | .scrub => .scrub

/-- The place of the oldest eligible operation of a class. -/
def oldestEligible (ops : List Operation) (c : ArbClass) : Option Nat :=
  (List.range ops.length).find? fun i => eligibleAt ops i && ((ops[i]?.map fun o => o.work.arbClass) == some c)

/-- The class order: drains first when the FREE count is at or below CLOSE-AHEAD (R49). -/
def classOrder (short : Bool) : List ArbClass := if short then [.drain, .fetch, .scrub] else [.fetch, .drain, .scrub]

/-- The place of the operation the arbiter chooses: highest class, then oldest (R49). -/
def State.chosenOp (s : State) : Option Nat := (classOrder s.buffer.short).findSome? (oldestEligible s.opList.ops)

/-- The lowest-numbered IDLE lane (R49). -/
def State.idleLane (s : State) : Option LaneIx := lowestFin 4 fun k => s.lanes[k] == .idle

/-- Dispatch is allowed in RUN and QUIESCING (R50). -/
def BridgeState.dispatches : BridgeState → Bool
  | .run | .quiescing => true
  | _ => false

/-- A dispatch is due: the lane and the place of the operation it takes (R49). -/
def State.dispatchChoice : State → Option (LaneIx × Nat)
  | s =>
    if s.control.bridge.dispatches then
      match s.idleLane, s.chosenOp with
      | some k, some i => some (k, i)
      | _, _ => none
    else none

/-! ## Taking an operation (R51) -/

/-- A COMMITTED entry becomes DRAINING when a lane takes its drain (R34). -/
def State.startDrain (s : State) (e : EntryIx) : State :=
  let x := s.buffer.entries[e]
  match x.line with
  | some L =>
    if x.state = .committed then (s.setEntry e { x with state := .draining }).wake (.entryChanged L) else s
  | none => s

/-- A QUEUED bit operation record becomes IN-FLIGHT when a lane takes its BITOP (R81). -/
def State.startBitOp (s : State) (i : BitIx) : State :=
  match s.bitops[i] with
  | .queued b => s.setBit i (.inFlight b [])
  | _ => s

/-- The effect of dispatch on what the operation works for (R51). -/
def State.startWork (s : State) : Work → State
  | .drain _ e => s.startDrain e
  | .bitop i => s.startBitOp i
  | .fill _ => s
  | .scrub => s

/-- The first command of an operation: a FULL-WRITE writes the entry's bytes, every other kind reads the line (R51, R53). -/
def State.firstCommand (s : State) : Work → ArrayCmd
  | .drain .fullWrite e => .lineWrite (lineWords s.buffer.entries[e].data)
  | _ => .lineRead

/-- The operation at place `i` becomes IN-FLIGHT with lane `k`. -/
def OperationList.take (l : OperationList) (i : Nat) (k : LaneIx) : OperationList :=
  { l with ops := l.ops.modify i fun o => { o with phase := .inFlight k } }

/-- Lane `k` takes the operation at place `i` and hands over its first command (R51). -/
def State.takeOp (s : State) (k : LaneIx) (i : Nat) : State :=
  match s.opList.ops[i]? with
  | none => s
  | some o =>
    (({ s with opList := s.opList.take i k }.startWork o.work).handOver k (s.firstCommand o.work) o.line)

/-- The dispatch that is due is made (R49, R51). -/
def State.dispatch (s : State) : State :=
  match s.dispatchChoice with
  | some (k, i) => s.takeOp k i
  | none => s

/-! ## Issue (R108) -/

/-- Issue is permitted in RUN, QUIESCING and HALTED (R108). -/
def BridgeState.issues : BridgeState → Bool
  | .run | .quiescing | .halted => true
  | _ => false

/-- An issue is due: the port is IDLE, the queue is not empty, and the state permits it (R108). -/
def State.issueDue (s : State) : Bool :=
  s.port.condition == .idle && !s.port.queue.isEmpty && s.control.bridge.issues

/-- The retries an issue loads: RETRY-LIMIT in RUN or QUIESCING, 0 in HALTED (R108). -/
def State.retriesAtIssue (s : State) : Nat := if s.control.bridge = .halted then 0 else s.port.retryLimit

/-- What is presented to the array: a LINE-WRITE's words with check bits computed at issue (R107, R118). -/
def ArrayCmd.present : ArrayCmd → Presented
  | .lineRead => .lineRead
  | .lineWrite ws => .lineWrite (Vector.ofFn fun w => encodeWord ws[w])

/-- The head of the queue is issued (R108). -/
def State.issue (s : State) : State :=
  match s.port.queue with
  | [] => s
  | q :: qs =>
    { s with port := { s.port with queue := qs } }.setPort
      (.issued ⟨q.lane, q.cmd.present, q.line, 1, s.retriesAtIssue⟩ s.port.responseTimeout)

end Sys2Proof.Machine
end

