-- ==== Sys2Proof/Machine/Settle.lean ====
section
/-! DEFINITION. The transitions the state controller makes by itself (10, R156, R161), entry into HALTED (R158), and the
steps an event brings about in the blocks around it: slot grants, head offers, dispatch, issue, quiesce completion and
restart clearing, each "at that event" by its own rule (R49, R58, R70, R94, R108, R137, R138, R145, R156, R160; log
entry 2). -/
namespace Sys2Proof.Machine

/-! ## Quiesce completion (R156) -/

/-- The quiesce completion condition (R156). -/
def State.quiesceHolds (s : State) : Bool :=
  s.buffer.count .opened == 0 && s.buffer.count .committed == 0 && s.buffer.count .draining == 0 &&
    countFin 8 (fun i => !s.reads[i].isFree) == 0 && countFin 4 (fun i => !s.bitops[i].isFree) == 0 &&
    s.opList.ops.isEmpty && s.port.condition == .idle

/-- The condition is examined in QUIESCING (R156). -/
def State.quiesceDue (s : State) : Bool := s.control.bridge == .quiescing && s.quiesceHolds

/-- The bridge enters QUIESCED and QUIESCED is raised (R156). -/
def State.enterQuiesced (s : State) : State := (s.setBridge .quiesced).raise .quiesced

/-! ## Restart clearing (R161) -/

/-- The clearing step is due: RESTARTING with the port IDLE (R160). -/
def State.clearDue (s : State) : Bool := s.control.bridge == .restarting && s.port.condition == .idle

/-- The clearing step (R161): operational state cleared, every item, the fault queue, and the scrub position and pass count
kept, the bridge in CONFIG. -/
def State.clear (s : State) : State :=
  { s with
    upstream := { s.upstream with intake := [], headWait := .none, offerDue := false, responses := [] }
    buffer := { s.buffer with entries := Vector.replicate 16 Entry.free, openOrder := [], counter := 0 }
    reads := Vector.replicate 8 .free
    bitops := Vector.replicate 4 .free
    opList := ⟨[], 0⟩
    lanes := Vector.replicate 4 .idle
    port := { s.port with queue := [], failures := 0 }
    scrub := { s.scrub with running := false, timer := none }
    masters := Vector.replicate 8 MasterCtx.reset
    control := ⟨.config, none⟩
    events := s.events.restart }

/-! ## Entry into HALTED (R158) -/

/-- An operation entry into HALTED removes: a QUEUED fill or BITOP (R45, R158). -/
def Operation.haltRemoves (o : Operation) : Bool := o.phase == .queued && o.work.arbClass == .fetch

/-- Read record `i` waits on a QUEUED fill (R72). -/
def OperationList.queuedFillOf (l : OperationList) (i : ReadIx) : Bool :=
  l.ops.any fun o =>
    match o.work, o.phase with
    | .fill readers, .queued => decide (i ∈ readers)
    | _, _ => false

/-- A reader of a QUEUED fill becomes READY with status HALTED (R72). -/
def ReadRec.halt (waits : Bool) : ReadRec → ReadRec
  | .waitFill r => if waits then .ready r .halted [] else .waitFill r
  | x => x

/-- A QUEUED bit operation record becomes READY with status HALTED (R86). -/
def BitRec.halt : BitRec → BitRec
  | .queued b => .ready b .halted []
  | x => x

/-- QUEUED fills and BITOPs are removed and answered HALTED (R72, R86). -/
def State.haltQueued (s : State) : State :=
  { s with
    reads := Vector.ofFn fun i => s.reads[i].halt (s.opList.queuedFillOf i)
    bitops := Vector.ofFn fun i => s.bitops[i].halt
    opList := { s.opList with ops := s.opList.ops.filter fun o => !o.haltRemoves } }

/-- The scrub interval timer becomes idle (R125). -/
def State.idleScrubTimer (s : State) : State := { s with scrub := { s.scrub with timer := none } }

/-- The failure count a HALT record carries: for THRESHOLD only (R158, R184). -/
def HaltCause.count (c : HaltCause) (failures : Nat) : Nat :=
  match c with
  | .command => 0
  | .threshold => failures

/-- A bound on the steps one event brings about: at most 8 + 4 + 8 responses, 8 requests leaving the head with the offers
of their waits, 4 dispatches, and one issue and one transition (log entry 2). -/
def stepBound : Nat := 256

/-- Steps 1 to 6 of entry into HALTED, and an offer of the head due (R158). -/
def State.halt (s : State) (cause : HaltCause) : State :=
  let s1 := { s with control := ⟨.halted, some cause⟩ }
  let s2 := s1.logFault (FaultRecord.of (.halt cause s.control.bridge (cause.count s.port.failures)))
  ((s2.raise .halt).haltQueued.idleScrubTimer).offerFresh

/-- Entry into HALTED (R158), the head offered at step 7 before anything else follows (log entry 24). -/
def State.enterHalted (s : State) (cause : HaltCause) : State := (s.halt cause).serveUpstream stepBound

/-! ## What an event brings about -/

/-- The next step that is due, in the order: restart clearing, slot grants, head offer, dispatch, issue, quiesce
completion (log entry 2). -/
def State.nextInternal (s : State) : Option Internal :=
  if s.clearDue then some .clear
  else match s.nextUpstream with
  | some i => some i
  | none =>
    if s.dispatchChoice.isSome then some .dispatch
    else if s.issueDue then some .issue
    else if s.quiesceDue then some .quiesced
    else none

/-- A step is taken. -/
def State.runInternal (s : State) : Internal → State
  | .placeRead i => s.placeRead i
  | .placeBit i => s.placeBit i
  | .placeBarrier m => s.placeBarrier m
  | .offer => s.offerHead
  | .dispatch => s.dispatch
  | .issue => s.issue
  | .quiesced => s.enterQuiesced
  | .clear => s.clear

/-- Steps are taken until none is due. -/
def State.settleLoop : Nat → State → State
  | 0, s => s
  | n + 1, s =>
    match s.nextInternal with
    | some i => State.settleLoop n (s.runInternal i)
    | none => s

/-- The event ends: a trigger of an offer that could not be made is not remembered (R137, R66). -/
def State.endEvent (s : State) : State := { s with upstream := { s.upstream with offerDue := false } }

/-- Everything an event brings about, to its end. -/
def State.settle (s : State) : State := (s.settleLoop stepBound).endEvent

end Sys2Proof.Machine
end

