-- ==== Sys2Proof/Machine/Completion.lean ====
section
/-! DEFINITION. The completion of array commands and of the operations they carry: classification (R109, R119-R122), drains
(R53-R58), fills (R67-R69), bit operations (R81-R85), scrubs (R127-R130), final failures (R110-R113), timeouts and the
abort interval (R111), and lanes in RESTARTING (R59). -/
namespace Sys2Proof.Machine

/-! ## What a lane sees of four words -/

/-- Word `w` was classified UNCORRECTABLE. -/
def ReadWord.bad (w : ReadWord) : Bool := w.cls == .uncorrectable
/-- The word was classified CORRECTED. -/
def ReadWord.fixed (w : ReadWord) : Bool :=
  match w.cls with
  | .corrected _ => true
  | _ => false
/-- A word is covered when all eight of its positions are in the valid set (R54). -/
def covered (valid : PosSet) (w : WordIx) : Bool := wordSet w &&& ~~~valid == 0
/-- The bytes of four words as handed to the lane. -/
def readBytes (ws : Vector ReadWord 4) : LineBytes := Vector.ofFn fun p => byteAt ws p.val
/-- The lowest-numbered word that passes a test. -/
def lowestWord (p : WordIx → Bool) : Option WordIx := lowestFin 4 p

/-! ## Going on to the LINE-WRITE (R55, R56, R59, R82, R128) -/

/-- A fault due at a hand-over is logged. -/
def State.logFault? (s : State) : Option FaultRecord → State
  | some r => s.logFault r
  | none => s

/-- The lane goes on to its LINE-WRITE: in RESTARTING it hands over nothing and is STOPPED (R59); otherwise the fault due
at the hand-over is logged and the command handed over. -/
def State.goOn (s : State) (k : LaneIx) (line : Nat) (bytes : LineBytes) (fault : Option FaultRecord) : State :=
  if s.control.bridge = .restarting then s.setLane k (.busy .stopped)
  else (s.logFault? fault).handOver k (.lineWrite (lineWords bytes)) line

/-! ## Drains -/

/-- The MERGE-UNCORRECTABLE fault of a drain (R54-R56). -/
def mergeFault (o : Operation) (d : MergeDetail) (w : WordIx) : FaultRecord :=
  { FaultRecord.of (.mergeUncorrectable d) with line := some o.line, word := some w, operation := some o.label }

/-- A drain completes (R58): its record leaves the list, its entry gets the result, its lane becomes IDLE. -/
def State.completeDrain (s : State) (k : LaneIx) (o : Operation) (e : EntryIx) (fail : Option HeldReason)
    (word : Option WordIx) : State :=
  let s1 := s.removeLaneOp k
  (match fail with
    | none => s1.drainSucceeds e
    | some r => s1.drainFails e r o.label word).setLane k .idle

/-- The lowest UNCORRECTABLE word that is not covered, and the lowest that is (R54, R56). -/
def badUncovered (valid : PosSet) (ws : Vector ReadWord 4) : Option WordIx :=
  lowestWord fun w => ws[w].bad && !covered valid w
def badCovered (valid : PosSet) (ws : Vector ReadWord 4) : Option WordIx :=
  lowestWord fun w => ws[w].bad && covered valid w

/-- The fault a drain logs when it hands over its LINE-WRITE: "forced" names the lowest uncovered UNCORRECTABLE word,
otherwise "overwritten" the lowest overwritten one (R55, R56). -/
def drainWriteFault (o : Operation) (valid : PosSet) (ws : Vector ReadWord 4) : Option FaultRecord :=
  match badUncovered valid ws with
  | some w => some (mergeFault o .forced w)
  | none => (badCovered valid ws).map (mergeFault o .overwritten)

/-- The LINE-READ of a drain is DONE: a MERGE-WRITE with an uncovered UNCORRECTABLE word fails (R54); otherwise the merged
line is written, entry bytes over the bytes read, raw ones where forced (R55, R56). -/
def State.drainRead (s : State) (k : LaneIx) (o : Operation) (kind : DrainKind) (e : EntryIx) (ws : Vector ReadWord 4) :
    State :=
  let x := s.buffer.entries[e]
  let bytes := overlayBytes x.valid x.data (readBytes ws)
  match kind, badUncovered x.valid ws with
  | .forceWrite, _ | _, none => s.goOn k o.line bytes (drainWriteFault o x.valid ws)
  | _, some w =>
    (s.logFault (mergeFault o .notCovered w)).completeDrain k o e (some .uncorrectable) (some w)

/-! ## Fills -/

/-- The positions of a reader that come from the array. -/
def ReadReq.fromArray (r : ReadReq) : PosSet := r.requested &&& ~~~r.overlaySet
/-- A reader needs a byte of word `w` from the array (R67). -/
def ReadReq.needs (r : ReadReq) (w : WordIx) : Bool := r.fromArray &&& wordSet w != 0
/-- A reader is answered DATA-ERROR: it needs a byte of an UNCORRECTABLE word (R67). -/
def ReadReq.spoiled (r : ReadReq) (ws : Vector ReadWord 4) : Bool :=
  (lowestWord fun w => ws[w].bad && r.needs w).isSome
/-- A reader's status and data from the words read (R67). -/
def ReadReq.answer (r : ReadReq) (ws : Vector ReadWord 4) : RecordStatus × List Byte :=
  if r.spoiled ws then (.dataError, List.replicate r.count 0)
  else (.ok, spanBytes (overlayBytes r.overlaySet r.overlayData (readBytes ws)) r.first r.count)

/-- A fill's reader gets its answer, and an ORPHANED one becomes FREE (R67, R69, R71). -/
def ReadRec.answered (f : ReadReq → RecordStatus × List Byte) : ReadRec → ReadRec
  | .waitFill r => .ready r (f r).1 (f r).2
  | .orphaned _ => .free
  | x => x

/-- A record is ORPHANED. -/
def ReadRec.isOrphaned : ReadRec → Bool
  | .orphaned _ => true
  | _ => false

/-- The readers of a fill get their answers (R67, R69); a record freed wakes a waiting read (R66). -/
def State.answerReaders (s : State) (readers : List ReadIx) (f : ReadReq → RecordStatus × List Byte) : State :=
  let s1 := { s with reads := Vector.ofFn fun i =>
    if i ∈ readers then s.reads[i].answered f else s.reads[i] }
  if readers.any fun i => s.reads[i].isOrphaned then s1.wake .readFreed else s1

/-- The request of a WAIT-FILL record. -/
def ReadRec.waiting : ReadRec → Option ReadReq
  | .waitFill r => some r
  | _ => none

/-- The readers answered DATA-ERROR, in readers-list order (R68). -/
def State.spoiledReaders (s : State) (readers : List ReadIx) (ws : Vector ReadWord 4) : List ReadReq :=
  (readers.filterMap fun i => s.reads[i].waiting).filter fun r => r.spoiled ws

/-- The READ-UNCORRECTABLE fault of a fill, when a reader is answered DATA-ERROR (R68). -/
def State.fillFault (s : State) (o : Operation) (readers : List ReadIx) (ws : Vector ReadWord 4) : Option FaultRecord :=
  let bad := s.spoiledReaders readers ws
  match bad with
  | [] => none
  | r :: _ =>
    some { FaultRecord.of (.readUncorrectable bad.length) with
      master := some r.master, tag := some r.tag, line := some o.line
      word := lowestWord fun w => ws[w].bad && bad.any fun x => x.needs w
      operation := some o.label }

/-- A fill completes with DONE (R67, R68). -/
def State.fillDone (s : State) (k : LaneIx) (o : Operation) (readers : List ReadIx) (ws : Vector ReadWord 4) : State :=
  ((((s.removeLaneOp k).answerReaders readers fun r => r.answer ws).logFault? (s.fillFault o readers ws))).setLane k .idle

/-! ## Bit operations -/

/-- The bit operation of a record that is IN-FLIGHT or ORPHANED. -/
def BitRec.running : BitRec → Option BitReq
  | .inFlight b _ | .orphaned b => some b
  | _ => none

/-- The record of a completed BITOP: READY with its result, or FREE when ORPHANED (R83, R85). -/
def BitRec.complete (st : RecordStatus) (data : List Byte) : BitRec → BitRec
  | .inFlight b _ => .ready b st data
  | .orphaned _ => .free
  | x => x

/-- The bit operation record is ORPHANED. -/
def BitRec.isOrphaned : BitRec → Bool
  | .orphaned _ => true
  | _ => false

/-- A BITOP completes (R83): removed, its record READY or FREE, the fault due logged, its lane IDLE. -/
def State.completeBitOp (s : State) (k : LaneIx) (i : BitIx) (st : RecordStatus) (data : List Byte)
    (fault : Option FaultRecord) : State :=
  let s1 := (s.removeLaneOp k).setBit i (s.bitops[i].complete st data)
  let s2 := if s.bitops[i].isOrphaned then s1.wake .bitFreed else s1
  (s2.logFault? fault).setLane k .idle

/-- The BITOP-UNCORRECTABLE fault (R81, R82). -/
def bitopFault (o : Operation) (b : BitReq) (d : BitopDetail) (w : WordIx) : FaultRecord :=
  { FaultRecord.of (.bitopUncorrectable d) with
    master := some b.master, tag := some b.tag, line := some o.line, word := some w, operation := some o.label }

/-- The line a bit operation writes: its span's bytes by R76, every other byte as handed to the lane (R82). -/
def BitReq.newBytes (b : BitReq) (old : LineBytes) : LineBytes :=
  Vector.ofFn fun p =>
    if b.first ≤ p.val ∧ p.val < b.first + b.operand.length
    then applyBits b.kind old[p] (b.operand.getD (p.val - b.first) 0) else old[p]

/-- The old bytes are kept in the record until the LINE-WRITE ends (R82, log entry 14). -/
def BitRec.keepOld (old : List Byte) : BitRec → BitRec
  | .inFlight b _ => .inFlight b old
  | x => x

/-- The LINE-READ of a BITOP is DONE (R81, R82). -/
def State.bitopRead (s : State) (k : LaneIx) (o : Operation) (i : BitIx) (ws : Vector ReadWord 4) : State :=
  match s.bitops[i].running with
  | none => s
  | some b =>
    let n := b.operand.length
    if ws[b.word].bad then
      s.completeBitOp k i .dataError (List.replicate n 0) (some (bitopFault o b .targetWord b.word))
    else
      let other := lowestWord fun w => ws[w].bad && w != b.word
      (s.setBit i (s.bitops[i].keepOld (spanBytes (readBytes ws) b.first n))).goOn k o.line (b.newBytes (readBytes ws))
        (other.map (bitopFault o b .otherWord))

/-- The old bytes a record returns (R82). -/
def BitRec.oldBytes : BitRec → List Byte
  | .inFlight _ old => old
  | _ => []

/-! ## Scrubs -/

/-- A SCRUB completes (R128): removed, the fault due logged, its lane IDLE. -/
def State.completeScrub (s : State) (k : LaneIx) (fault : Option FaultRecord) : State :=
  ((s.removeLaneOp k).logFault? fault).setLane k .idle

/-- The number of words that pass a test. -/
def countWords (ws : Vector ReadWord 4) (p : ReadWord → Bool) : Nat := countFin 4 fun w => p ws[w]

/-- The SCRUB-UNCORRECTABLE fault (R129). -/
def scrubFault (o : Operation) (ws : Vector ReadWord 4) : FaultRecord :=
  { FaultRecord.of (.scrubUncorrectable (countWords ws (·.bad)) (countWords ws (·.fixed))) with
    line := some o.line, word := lowestWord fun w => ws[w].bad, operation := some o.label }

/-- The LINE-READ of a SCRUB is DONE (R127-R129). -/
def State.scrubRead (s : State) (k : LaneIx) (o : Operation) (ws : Vector ReadWord 4) : State :=
  if countWords ws (·.bad) ≠ 0 then s.completeScrub k (some (scrubFault o ws))
  else if countWords ws (·.fixed) ≠ 0 then s.goOn k o.line (readBytes ws) none
  else s.completeScrub k none

/-! ## DONE (R109) -/

/-- The consequences of one word's classification (R120, R122). -/
def State.noteWord (s : State) (line : Nat) (op : Option (OpKind × BitVec 16)) (w : WordIx) (x : ReadWord) : State :=
  match x.cls with
  | .clean => s
  | .uncorrectable => s.raise .uncorrectable
  | .corrected q =>
    let s1 := { s with port := { s.port with correctedCount := saturate Config.correctedMax s.port.correctedCount } }
    let s2 := s1.raise .corrected
    if s.port.logCorrected then
      s2.logFault { FaultRecord.of (.corrected (decide (64 ≤ q))) with
        line := some line, word := some w, bitPosition := some q, operation := op }
    else s2

/-- The consequences of four words, in word order (R109 step 3). -/
def State.noteWords (s : State) (line : Nat) (op : Option (OpKind × BitVec 16)) (ws : Vector ReadWord 4) : State :=
  (List.finRange 4).foldl (fun s w => s.noteWord line op w ws[w]) s

/-- The lane gets the words of its LINE-READ (R52). -/
def State.laneRead (s : State) (k : LaneIx) (ws : Vector ReadWord 4) : State :=
  match s.laneOp k with
  | none => s
  | some o =>
    match o.work with
    | .drain kind e => s.drainRead k o kind e ws
    | .fill readers => s.fillDone k o readers ws
    | .bitop i => s.bitopRead k o i ws
    | .scrub => s.scrubRead k o ws

/-- The lane's LINE-WRITE succeeded: its operation completes (R53, R55, R82, R128). -/
def State.laneWritten (s : State) (k : LaneIx) : State :=
  match s.laneOp k with
  | none => s
  | some o =>
    match o.work with
    | .drain _ e => s.completeDrain k o e none none
    | .fill _ => s
    | .bitop i => s.completeBitOp k i .ok s.bitops[i].oldBytes none
    | .scrub => s.completeScrub k none

/-- DONE while ISSUED (R109): the port is IDLE, the consecutive failure count 0, the words of a LINE-READ classified, and
the result handed to the lane. -/
def State.done (s : State) (c : InProgress) (words : Vector CodedWord 4) : State :=
  let s1 := { s with port := { s.port with failures := 0 } }.setPort .idle
  match c.cmd with
  | .lineWrite _ => s1.laneWritten c.lane
  | .lineRead =>
    let ws := Vector.ofFn fun w => classify words[w]
    (s1.noteWords c.line ((s1.laneOp c.lane).map (·.label)) ws).laneRead c.lane ws

/-! ## Final failures (R112, R113) -/

/-- The held reason of a failed command (R57). -/
def FailReason.held : FailReason → HeldReason
  | .timeout => .timeout
  | .memFault => .memFault

/-- The status of a response whose command failed (R69, R84). -/
def FailReason.status : FailReason → RecordStatus
  | .timeout => .memTimeout
  | .memFault => .memFault

/-- LINE-READ or LINE-WRITE. -/
def Presented.kind : Presented → CmdKind
  | .lineRead => .lineRead
  | .lineWrite _ => .lineWrite

/-- The fault of a final failure (R112 step 1). -/
def failFault (c : InProgress) (r : FailReason) (op : Option (OpKind × BitVec 16)) : FaultRecord :=
  let k := match r with
    | .timeout => FaultKind.memTimeout c.cmd.kind c.issueCount
    | .memFault => FaultKind.memFault c.cmd.kind c.issueCount
  { FaultRecord.of k with line := some c.line, operation := op }

/-- The lane gets the failure, and its operation completes (R57, R69, R84, R130). -/
def State.laneFailed (s : State) (k : LaneIx) (r : FailReason) : State :=
  match s.laneOp k with
  | none => s
  | some o =>
    match o.work with
    | .drain _ e => s.completeDrain k o e (some r.held) none
    | .fill readers => ((s.removeLaneOp k).answerReaders readers fun _ => (r.status, [])).setLane k .idle
    | .bitop i => s.completeBitOp k i r.status [] none
    | .scrub => s.completeScrub k none

/-- The bridge states in which the halt threshold acts, and a timed-out command may be reissued (R111, R113). -/
def BridgeState.working : BridgeState → Bool
  | .run | .quiescing => true
  | _ => false

/-- Step 3 of R112: the count rises, and at the threshold in RUN or QUIESCING the bridge enters HALTED (R113). -/
def State.countFailure (s : State) : State :=
  let s1 := { s with port := { s.port with failures := saturate Config.failuresMax s.port.failures } }
  if s1.port.haltThreshold ≤ s1.port.failures ∧ s1.control.bridge.working = true then s1.enterHalted .threshold else s1

/-- A final failure of command `c` (R112), the port's next condition set. -/
def State.finalFailure (s : State) (c : InProgress) (r : FailReason) (next : PortCondition) : State :=
  let s1 := (s.setPort next).logFault (failFault c r ((s.laneOp c.lane).map (·.label)))
  ((s1.raise .memFailure).countFailure).laneFailed c.lane r

/-! ## The array's and the timer's events -/

/-- DONE (R109); disregarded unless ISSUED (R111). -/
def State.arrayDone (s : State) (words : Vector CodedWord 4) : State :=
  match s.port.condition with
  | .issued c _ => (s.done c words).settle
  | _ => s

/-- FAULT (R110); disregarded unless ISSUED (R111). -/
def State.arrayFault (s : State) : State :=
  match s.port.condition with
  | .issued c _ => (s.finalFailure c .memFault .idle).settle
  | _ => s

/-- The completion timer expires (R111): ABORTING, with a reissue pending when retries remain in RUN or QUIESCING, and
otherwise after a final failure. -/
def State.completionTimeout (s : State) : State :=
  match s.port.condition with
  | .issued c _ =>
    if 0 < c.retries ∧ s.control.bridge.working = true then
      (s.setPort (.aborting (some { c with retries := c.retries - 1 }) Config.abortInterval)).settle
    else (s.finalFailure c .timeout (.aborting none Config.abortInterval)).settle
  | _ => s

/-- The abort interval ends (R111): the pending reissue is made, or cancelled into a final failure outside RUN and
QUIESCING; without one the port becomes IDLE. -/
def State.abortEnd (s : State) : State :=
  match s.port.condition with
  | .aborting (some c) _ =>
    if s.control.bridge.working = true then
      (s.setPort (.issued { c with issueCount := c.issueCount + 1 } s.port.responseTimeout)).settle
    else (s.finalFailure c .timeout .idle).settle
  | .aborting none _ => (s.setPort .idle).settle
  | _ => s

end Sys2Proof.Machine
end

