-- ==== Sys2Proof/Machine/Scrub.lean ====
section
/-! DEFINITION. The patrol scrubber's timer, position and flag (08, R123-R133), the expiry of an age timer (R28), the commit
of a close-pending successor (R35), and the microsecond of an empty command queue (log entry 4). -/
namespace Sys2Proof.Machine

/-! ## Age expiry and close-pending commit -/

/-- Entry `e`'s age timer expires (R28): only a running timer of an OPEN entry does; it has no time left, and the entry is
close-requested (log entry 11). -/
def State.ageExpires (s : State) (e : EntryIx) : State :=
  let x := s.buffer.entries[e]
  match x.ageTimer with
  | none => s
  | some _ =>
    if x.state = .opened then ((s.setEntry e { x with ageTimer := some 0 }).closeRequest e).settle else s

/-- The close-pending OPEN entry `e` commits when its line has no predecessor (R29, R35). -/
def State.closePendingCommit (s : State) (e : EntryIx) : State :=
  let x := s.buffer.entries[e]
  match x.line with
  | none => s
  | some L =>
    if x.state = .opened ∧ x.closePending = true ∧ s.buffer.predecessor L = none then (s.commit e L).settle else s

/-! ## Scrub -/

/-- The operation is a SCRUB. -/
def Operation.isScrub (o : Operation) : Bool := o.work == .scrub

/-- A SCRUB is listed (R126). -/
def State.scrubListed (s : State) : Bool := s.opList.ops.any Operation.isScrub

/-- The interval timer is loaded with SCRUB-INTERVAL (R125). -/
def State.loadScrubTimer (s : State) : State := { s with scrub := { s.scrub with timer := some s.scrub.interval } }

/-- The position advances, or wraps at the last line with the pass counted and SCRUB-PASS raised (R126). -/
def State.advanceScrub (s : State) : State :=
  if s.scrub.position + 1 < s.capacityLines then
    { s with scrub := { s.scrub with position := s.scrub.position + 1 } }
  else
    { s with scrub := { s.scrub with position := 0, passes := s.scrub.passes + 1 } }.raise .scrubPass

/-- The interval timer expires (R126): skipped while a SCRUB is listed, else one is appended for the position, which
advances; the timer is reloaded. An idle timer does not expire (R125). -/
def State.scrubExpires (s : State) : State :=
  match s.scrub.timer with
  | none => s
  | some _ =>
    if s.scrubListed then s.loadScrubTimer
    else (((s.appendOp .scrub s.scrub.position).advanceScrub).loadScrubTimer).settle

/-- SCRUB-START in RUN (R131). -/
def State.scrubStart (s : State) : State :=
  if s.scrub.running then s
  else { s with scrub := { s.scrub with running := true, timer := some s.scrub.interval } }

/-- The operation is a QUEUED SCRUB, which SCRUB-STOP removes (R131). -/
def Operation.isQueuedScrub (o : Operation) : Bool := o.isScrub && o.phase == .queued

/-- The scrubber is stopped, and its timer idle. -/
def State.stopScrubber (s : State) : State := { s with scrub := { s.scrub with running := false, timer := none } }

/-- SCRUB-STOP (R131): stopped, timer idle, a QUEUED SCRUB removed. -/
def State.scrubStop (s : State) : State := (s.stopScrubber.keepOps fun o => !o.isQueuedScrub).settle

/-! ## A microsecond passes (log entry 4) -/

/-- A running timer loses one microsecond; at 0 it stays. -/
def tickTimer (t : Option Nat) : Option Nat := t.map (· - 1)

/-- An age timer runs down in OPEN only (R28). -/
def Entry.tick (x : Entry) : Entry := { x with ageTimer := tickTimer x.ageTimer }

/-- The completion timer or the abort interval runs down (R108, R111). -/
def PortCondition.tick : PortCondition → PortCondition
  | .idle => .idle
  | .issued c t => .issued c (t - 1)
  | .aborting r t => .aborting r (t - 1)

/-- Every running timer loses one microsecond. -/
def State.runTimers (s : State) : State :=
  { s with
    buffer := { s.buffer with entries := Vector.ofFn fun e => s.buffer.entries[e].tick }
    port := { s.port with condition := s.port.condition.tick }
    scrub := { s.scrub with timer := tickTimer s.scrub.timer } }

/-- The array port's timer has run out: the completion timer expires, or the abort interval ends (R111). -/
def State.firePort (s : State) : State :=
  match s.port.condition with
  | .issued _ 0 => s.completionTimeout
  | .aborting _ 0 => s.abortEnd
  | _ => s

/-- Entry `e`'s age timer has run out: it expires. For a close-pending entry the expiry has no effect (R28). -/
def State.fireAge (s : State) (e : EntryIx) : State :=
  if s.buffer.entries[e].ageTimer = some 0 ∧ s.buffer.entries[e].closePending = false then s.ageExpires e else s

/-- The interval timer has run out: it expires (R126). -/
def State.fireScrub (s : State) : State := if s.scrub.timer = some 0 then s.scrubExpires else s

/-- One microsecond passes: every timer runs down, and those that have run out expire, the array port's first, then the
age timers by entry number, then the scrubber's (log entry 4). -/
def State.microsecond (s : State) : State :=
  ((List.finRange 16).foldl State.fireAge s.runTimers.firePort).fireScrub

end Sys2Proof.Machine
end

