-- ==== Sys2Proof/Machine/Control.lean ====
section
/-! DEFINITION. The transitions of the bridge state that commands make (10, R154-R160), the flush (R32), and the releases
(R102-R105). The acceptance of each command is Management.lean's. -/
namespace Sys2Proof.Machine

/-- The bridge enters RUN (R154): the scrub timer starts when the flag is running, and the head is due an offer. -/
def State.startRun (s : State) : State :=
  let s1 := s.setBridge .run
  ((if s1.scrub.running then s1.loadScrubTimer else s1.idleScrubTimer).offerFresh).settle

/-- QUIESCE in RUN (R155): the intake is frozen, the scrub timer idle, every OPEN entry close-requested in open order. -/
def State.startQuiesce (s : State) : State :=
  let s1 := (s.setBridge .quiescing).idleScrubTimer
  (s1.closeAll s1.buffer.openOrder).settle

/-- CONFIGURE with no HELD entry (R157): CONFIG, and the head is due an offer. -/
def State.startConfig (s : State) : State := ((s.setBridge .config).offerFresh).settle

/-- HALT (R158). -/
def State.haltCommand (s : State) : State := (s.enterHalted .command).settle

/-- RESTART (R160): RESTARTING, the scrub timer idle; the clearing step follows when the port is IDLE. -/
def State.startRestart (s : State) : State := ((s.setBridge .restarting).idleScrubTimer).settle

/-- FLUSH in RUN (R32): every OPEN entry close-requested in open order. -/
def State.flushAll (s : State) : State := (s.closeAll s.buffer.openOrder).settle

/-- RELEASE RETRY or FORCE in QUIESCED returns the bridge to QUIESCING (R105). -/
def State.backToQuiescing (s : State) : State := if s.control.bridge = .quiesced then s.setBridge .quiescing else s

/-- RELEASE DISCARD (R102). -/
def State.releaseDiscard (s : State) (e : EntryIx) : State := (s.discard e).settle

/-- RELEASE RETRY (R103, R105). -/
def State.releaseRetry (s : State) (e : EntryIx) : State :=
  ((s.recommit e s.buffer.entries[e].drainKind).backToQuiescing).settle

/-- RELEASE FORCE (R104, R105). -/
def State.releaseForce (s : State) (e : EntryIx) : State := ((s.recommit e .forceWrite).backToQuiescing).settle

end Sys2Proof.Machine
end

