-- ==== Sys2Proof/Machine/Layouts.lean ====
section
/-! DEFINITION. The byte layouts of the management port: codes, item values, the region descriptor, and the fault, entry and
master records (12, R178, R181, R184). -/
namespace Sys2Proof.Machine

/-! ## Codes (R184) -/

def MgmtStatus.code : MgmtStatus → Nat
  | .ok => 0
  | .badCheck => 1
  | .badCommand => 2
  | .badItem => 3
  | .badValue => 4
  | .badState => 5
  | .badConfig => 6
  | .notHeld => 7
  | .empty => 8

def BridgeState.code : BridgeState → Nat
  | .config => 0
  | .run => 1
  | .quiescing => 2
  | .quiesced => 3
  | .halted => 4
  | .restarting => 5

def HaltCause.code : HaltCause → Nat
  | .command => 1
  | .threshold => 2

def Attr.code : Attr → Nat
  | .combine => 0
  | .direct => 1
  | .readOnly => 2
  | .closed => 3

/-- The attribute a code names, if any. -/
def attrOfCode : Nat → Option Attr
  | 0 => some .combine
  | 1 => some .direct
  | 2 => some .readOnly
  | 3 => some .closed
  | _ => none

def EntryState.code : EntryState → Nat
  | .free => 0
  | .opened => 1
  | .committed => 2
  | .draining => 3
  | .held => 4

def HeldReason.code : HeldReason → Nat
  | .uncorrectable => 1
  | .timeout => 2
  | .memFault => 3

def DeferredKind.code : DeferredKind → Nat
  | .lineHeld => 1
  | .writeDenied => 2
  | .writeUnmapped => 3
  | .writeMisaligned => 4
  | .writeNotRunning => 5

def OpKind.code : OpKind → Nat
  | .drain .fullWrite => 0
  | .drain .mergeWrite => 1
  | .drain .forceWrite => 2
  | .fillRead => 3
  | .bitop => 4
  | .scrub => 5

def ReqKind.code : ReqKind → Nat
  | .read => 0
  | .write => 1
  | .bits .setBits => 2
  | .bits .clearBits => 3
  | .bits .flipBits => 4
  | .barrier => 5

def DenialCause.code : DenialCause → Nat
  | .closed => 0
  | .master => 1
  | .readOnly => 2

def MergeDetail.code : MergeDetail → Nat
  | .notCovered => 0
  | .overwritten => 1
  | .forced => 2

def BitopDetail.code : BitopDetail → Nat
  | .targetWord => 0
  | .otherWord => 1

def CmdKind.code : CmdKind → Nat
  | .lineRead => 0
  | .lineWrite => 1

def Level.code : Level → Nat
  | .routine => 1
  | .urgent => 2

/-- The code of a fault kind. -/
def FaultKind.code : FaultKind → Nat
  | .writeDenied _ _ => 1
  | .writeUnmapped _ => 2
  | .writeMisaligned _ _ => 3
  | .writeNotRunning _ => 4
  | .tagClash _ => 5
  | .readUncorrectable _ => 6
  | .mergeUncorrectable _ => 7
  | .bitopUncorrectable _ => 8
  | .scrubUncorrectable _ _ => 9
  | .corrected _ => 10
  | .memTimeout _ _ => 11
  | .memFault _ _ => 12
  | .lineHeld _ _ => 13
  | .halt _ _ _ => 14

/-- Detail bytes 18 to 20 of a fault record; byte 21 is 0. -/
def FaultKind.detail : FaultKind → Nat × Nat × Nat
  | .writeDenied c n => (c.code, n.val, 0)
  | .writeUnmapped n => (n, 0, 0)
  | .writeMisaligned p n => (p, n, 0)
  | .writeNotRunning b => (b.code, 0, 0)
  | .tagClash k => (k.code, 0, 0)
  | .readUncorrectable n => (n, 0, 0)
  | .mergeUncorrectable d => (d.code, 0, 0)
  | .bitopUncorrectable d => (d.code, 0, 0)
  | .scrubUncorrectable u c => (u, c, 0)
  | .corrected check => (if check then 1 else 0, 0, 0)
  | .memTimeout c n => (c.code, n, 0)
  | .memFault c n => (c.code, n, 0)
  | .lineHeld r e => (r.code, e.val, 0)
  | .halt c b n => (c.code, b.code, n)

/-! ## Records -/

/-- 1 when a condition holds. -/
def bitNat (b : Bool) : Nat := if b then 1 else 0

/-- The presence bits of a fault record, bit 0 master to bit 7 queued-order. -/
def FaultRecord.presence (r : FaultRecord) : Nat :=
  bitNat r.master.isSome + 2 * bitNat r.tag.isSome + 4 * bitNat r.address.isSome + 8 * bitNat r.line.isSome +
    16 * bitNat r.word.isSome + 32 * bitNat r.bitPosition.isSome + 64 * bitNat r.operation.isSome +
    128 * bitNat r.operation.isSome

/-- A field absent in a record is sent as zero bytes. -/
def orZero {α : Type} (f : α → Nat) : Option α → Nat
  | some a => f a
  | none => 0

/-- The fault record (24 bytes). -/
def FaultRecord.layout (r : FaultRecord) : List Byte :=
  let d := r.kind.detail
  leBytes 2 r.sequence.toNat ++ leBytes 1 r.kind.code ++ leBytes 2 r.presence ++
    leBytes 1 (orZero Fin.val r.master) ++ leBytes 1 (orZero Fin.val r.tag) ++
    leBytes 4 (orZero BitVec.toNat r.address) ++ leBytes 4 (orZero id r.line) ++ leBytes 1 (orZero Fin.val r.word) ++
    leBytes 1 (orZero id r.bitPosition) ++ leBytes 1 (orZero (fun o => o.1.code) r.operation) ++
    leBytes 1 d.1 ++ leBytes 1 d.2.1 ++ leBytes 1 d.2.2 ++ leBytes 1 0 ++
    leBytes 2 (orZero (fun o => o.2.toNat) r.operation)

/-- An age timer's bytes: the remaining time while running, 65535 when stopped. -/
def ageBytes : Option Nat → Nat
  | some t => t
  | none => 65535

/-- The entry record (48 bytes); bytes outside the valid set are 0 (R40). -/
def Entry.layout (x : Entry) : List Byte :=
  leBytes 1 x.state.code ++ leBytes 4 (orZero id x.line) ++ leBytes 4 x.valid.toNat ++
    (overlayBytes x.valid x.data (Vector.replicate 32 0)).toList ++ leBytes 1 x.contributors.toNat ++
    leBytes 2 (orZero BitVec.toNat x.openedOrder) ++ leBytes 1 (bitNat x.closePending) ++
    leBytes 2 (ageBytes x.ageTimer) ++ leBytes 1 (orZero HeldReason.code x.heldReason)

/-- The master record (9 bytes). -/
def MasterCtx.layout (c : MasterCtx) : List Byte :=
  leBytes 2 c.tags.toNat ++ leBytes 1 (bitNat c.barrier.isSome) ++ leBytes 1 (orZero (fun b => b.tag.val) c.barrier) ++
    leBytes 2 (orZero (fun b => b.waitSet.toNat) c.barrier) ++ leBytes 1 (orZero (fun d => d.kind.code) c.deferred) ++
    leBytes 1 (orZero (fun d => d.further) c.deferred) ++ leBytes 1 0

/-- The region descriptor (12 bytes). -/
def Region.layout (r : Region) : List Byte :=
  leBytes 1 (bitNat r.valid) ++ leBytes 1 r.attr.code ++ leBytes 1 r.sizeCode ++ leBytes 1 r.masters.toNat ++
    leBytes 4 r.base ++ leBytes 4 r.offset

/-- The descriptor of a 12-byte payload, when every field is in range (R5, R6, R184). -/
def regionOfBytes : List Byte → Option Region
  | v :: a :: z :: m :: b0 :: b1 :: b2 :: b3 :: o0 :: o1 :: o2 :: [o3] =>
    let base := leValue [b0, b1, b2, b3]
    let offset := leValue [o0, o1, o2, o3]
    match attrOfCode a.toNat with
    | none => none
    | some attr =>
      if v.toNat ≤ 1 ∧ z.toNat ≤ 14 ∧ base % 4096 = 0 ∧ base ≤ 2 ^ 32 - 4096 ∧ offset % 4096 = 0 ∧
          offset ≤ 2 ^ 26 - 4096 then
        some ⟨v.toNat == 1, base, z.toNat, offset, attr, m⟩
      else none
  | _ => none

/-- The places of the service stack (R181): depth, place 0, place 1, current level. -/
def EventUnit.layout (u : EventUnit) : List Byte :=
  leBytes 1 u.stack.length ++ leBytes 1 (orZero Level.code u.stack[0]?) ++ leBytes 1 (orZero Level.code u.stack[1]?) ++
    leBytes 1 (orZero Level.code u.currentLevel)

/-- The region and the failing check START reports: reason code and two region bytes, 255 where none (R183). -/
def ConfigFailure.layout : ConfigFailure → List Byte
  | .noCapacity => [1, 255, 255]
  | .noRegion => [2, 255, 255]
  | .baseAlignment n => [3, BitVec.ofNat 8 n.val, 255]
  | .beyondCapacity n => [4, BitVec.ofNat 8 n.val, 255]
  | .overlap i j => [5, BitVec.ofNat 8 i.val, BitVec.ofNat 8 j.val]

/-! ## Items (R181) -/

/-- The value GET-ITEM returns for an item number; none outside the item table (R180). -/
def State.itemValue (s : State) : Nat → Option (List Byte)
  | 0 => some (leBytes 1 Config.familyCode ++ leBytes 2 Config.partNumber ++ leBytes 1 Config.revision)
  | 1 => some (leBytes 1 s.control.bridge.code ++ leBytes 1 (orZero HaltCause.code s.control.haltCause))
  | 2 => some (leBytes 1 s.regionMap.memorySize)
  | 3 => some s.regionMap.regions[0].layout
  | 4 => some s.regionMap.regions[1].layout
  | 5 => some s.regionMap.regions[2].layout
  | 6 => some s.regionMap.regions[3].layout
  | 7 => some s.regionMap.regions[4].layout
  | 8 => some s.regionMap.regions[5].layout
  | 9 => some s.regionMap.regions[6].layout
  | 10 => some s.regionMap.regions[7].layout
  | 11 => some (leBytes 2 s.buffer.ageLimit)
  | 12 => some (leBytes 1 s.buffer.closeAhead)
  | 13 => some (leBytes 1 s.port.responseTimeout)
  | 14 => some (leBytes 1 s.port.retryLimit)
  | 15 => some (leBytes 1 s.port.haltThreshold)
  | 16 => some (leBytes 2 s.scrub.interval)
  | 17 => some (leBytes 4 s.scrub.position ++ leBytes 1 (bitNat s.scrub.running))
  | 18 => some (leBytes 2 s.scrub.passes.toNat)
  | 19 => some (leBytes 2 s.port.correctedCount)
  | 20 => some (leBytes 1 (bitNat s.port.logCorrected))
  | 21 => some (leBytes 2 s.events.enable.toNat)
  | 22 => some (leBytes 2 s.events.urgent.toNat)
  | 23 => some (leBytes 2 s.events.pending.toNat)
  | 24 => some s.events.layout
  | 25 => some (leBytes 1 s.faults.records.length ++ leBytes 1 s.faults.overflow)
  | 26 => some (leBytes 1 s.buffer.freeCount)
  | 27 => some (leBytes 1 s.port.failures)
  | 28 => some (leBytes 1 s.mgmt.frameErrors)
  | _ => none

/-! ## Response frames (R178) -/

/-- The response frame: start marker, status, payload length, payload, CRC-8 over all of them. -/
def responseFrame (st : MgmtStatus) (data : List Byte) : List Byte :=
  let body := Config.startMarker :: BitVec.ofNat 8 st.code :: BitVec.ofNat 8 data.length :: data
  body ++ [crc8 body]

/-- A completed command frame is answered (R178): the engine is in REPLY with the response frame, NFILL fillers before it
(log entries 1, 6). -/
def State.reply (s : State) (st : MgmtStatus) (data : List Byte) : State :=
  { s with mgmt := { s.mgmt with
      msel := true, condition := .reply, bytes := [], bits := [], response := responseFrame st data
      fillers := Config.fillers s.mgmt.exchanges, sent := 0, exchanges := s.mgmt.exchanges + 1 } }

end Sys2Proof.Machine
end

