-- ==== Sys2Proof/Machine/Management.lean ====
section
/-! DEFINITION. The execution of management commands: the checks of R179 in their order, GET-ITEM and SET-ITEM (R180, R181),
and every other command (R183). Each answers with the state the command leaves, its status and its payload. -/
namespace Sys2Proof.Machine

/-- The outcome of a command: the state it leaves, its status and its payload. -/
structure MgmtResult where
  state : State
  status : MgmtStatus
  data : List Byte

/-- The command is refused, and no state changes (R179). -/
def State.refused (s : State) (st : MgmtStatus) : MgmtResult := ⟨s, st, []⟩
/-- The command is carried out and answers OK with no payload. -/
def State.okay (s : State) : MgmtResult := ⟨s, .ok, []⟩
/-- The command answers OK with a payload and changes no state. -/
def State.answers (s : State) (data : List Byte) : MgmtResult := ⟨s, .ok, data⟩

/-- The response frame of a command's outcome (R178). -/
def MgmtResult.replied (r : MgmtResult) : State := r.state.reply r.status r.data

/-- A completed frame with payload `p` is executed; one whose length byte holds more than 40 is answered BAD-CHECK and
not executed (R175). -/
def State.execute (s : State) (p : List Byte) (f : State → MgmtResult) : State :=
  if p.length ≤ Config.maxPayload then (f s).replied else s.reply .badCheck []

/-- Check 4 for a command that takes no payload: payload length 0 (R179). -/
def State.noPayload (s : State) (p : List Byte) (f : State → MgmtResult) : MgmtResult :=
  if p.isEmpty then f s else s.refused .badValue

/-- Check 3, then check 4 (R179): accepted in this state, and no payload. -/
def State.acceptedIn (s : State) (ok : Bool) (p : List Byte) (f : State → MgmtResult) : MgmtResult :=
  if ok then s.noPayload p f else s.refused .badState

/-! ## SET-ITEM (R181) -/

/-- Check 3, then check 4 with the payload length and range of an item, then the write (R179, R181). -/
def State.writeItem (s : State) (ok : Bool) (len : Nat) (inRange : Nat → Bool) (p : List Byte) (f : Nat → State) :
    MgmtResult :=
  if ok = false then s.refused .badState
  else if p.length = len ∧ inRange (leValue p) = true then (f (leValue p)).okay
  else s.refused .badValue

/-- The bridge is in CONFIG. -/
def State.inConfig (s : State) : Bool := s.control.bridge == .config
/-- The bridge is not in RESTARTING. -/
def State.notRestarting (s : State) : Bool := s.control.bridge != .restarting

/-- MEMORY-SIZE (R3, R4): the position becomes 0 when it does not lie below the new capacity. -/
def State.storeMemorySize (s : State) (v : Nat) : State :=
  { s with
    regionMap := { s.regionMap with memorySize := v }
    scrub := { s.scrub with position := if s.scrub.position < linesOfCode v then s.scrub.position else 0 } }
def State.setMemorySize (s : State) (p : List Byte) : MgmtResult :=
  s.writeItem s.inConfig 1 (fun v => decide (v ≤ 11)) p s.storeMemorySize

/-- REGION-n (R6): all six fields are stored together. -/
def State.storeRegion (s : State) (n : RegionIx) (r : Region) : State :=
  { s with regionMap := { s.regionMap with regions := s.regionMap.regions.set n r } }
def State.setRegion (s : State) (n : RegionIx) (p : List Byte) : MgmtResult :=
  if s.inConfig = false then s.refused .badState
  else match regionOfBytes p with
  | some r => (s.storeRegion n r).okay
  | none => s.refused .badValue

/-- AGE-LIMIT (R28). -/
def State.setAgeLimit (s : State) (p : List Byte) : MgmtResult :=
  s.writeItem true 2 (fun v => decide (v ≤ 1023)) p fun v => { s with buffer := { s.buffer with ageLimit := v } }

/-- CLOSE-AHEAD (R25): the arbiter's condition is examined again (R49). -/
def State.setCloseAhead (s : State) (p : List Byte) : MgmtResult :=
  s.writeItem true 1 (fun v => decide (v ≤ 8)) p fun v =>
    ({ s with buffer := { s.buffer with closeAhead := v } }).settle

/-- RESPONSE-TIMEOUT, RETRY-LIMIT and HALT-THRESHOLD (R114). -/
def State.setResponseTimeout (s : State) (p : List Byte) : MgmtResult :=
  s.writeItem s.inConfig 1 (fun v => decide (1 ≤ v ∧ v ≤ 255)) p fun v =>
    { s with port := { s.port with responseTimeout := v } }
def State.setRetryLimit (s : State) (p : List Byte) : MgmtResult :=
  s.writeItem s.inConfig 1 (fun v => decide (v ≤ 3)) p fun v => { s with port := { s.port with retryLimit := v } }
def State.setHaltThreshold (s : State) (p : List Byte) : MgmtResult :=
  s.writeItem s.inConfig 1 (fun v => decide (1 ≤ v ∧ v ≤ 15)) p fun v =>
    { s with port := { s.port with haltThreshold := v } }

/-- SCRUB-INTERVAL (R124): a counting timer keeps its remaining time. -/
def State.setScrubInterval (s : State) (p : List Byte) : MgmtResult :=
  s.writeItem true 2 (fun v => decide (1 ≤ v)) p fun v => { s with scrub := { s.scrub with interval := v } }

/-- SCRUB-POSITION (R132): only while the scrubber is stopped, and below the capacity in lines. -/
def State.setScrubPosition (s : State) (p : List Byte) : MgmtResult :=
  s.writeItem (!s.scrub.running) 4 (fun v => decide (v < s.capacityLines)) p fun v =>
    { s with scrub := { s.scrub with position := v } }

/-- CORRECTED-COUNT (R120): any value sets the count to 0. -/
def State.setCorrectedCount (s : State) (p : List Byte) : MgmtResult :=
  s.writeItem true 2 (fun _ => true) p fun _ => { s with port := { s.port with correctedCount := 0 } }

/-- LOG-CORRECTED (R121). -/
def State.setLogCorrected (s : State) (p : List Byte) : MgmtResult :=
  s.writeItem true 1 (fun v => decide (v ≤ 1)) p fun v => { s with port := { s.port with logCorrected := v == 1 } }

/-- A source mask in range: bits 12 to 15 are 0 (R181). -/
def maskInRange (v : Nat) : Bool := decide (v < 4096)

/-- EVENT-ENABLE (R167): source 1 stays on; ALERT is recomputed. -/
def State.setEventEnable (s : State) (p : List Byte) : MgmtResult :=
  s.writeItem s.notRestarting 2 (fun v => maskInRange v && v % 2 == 1) p fun v =>
    { s with events := { s.events with enable := BitVec.ofNat 12 v }.recompute }

/-- EVENT-LEVEL (R167): source 1 stays URGENT; ALERT is recomputed. -/
def State.setEventLevel (s : State) (p : List Byte) : MgmtResult :=
  s.writeItem s.notRestarting 2 (fun v => maskInRange v && v % 2 == 1) p fun v =>
    { s with events := { s.events with urgent := BitVec.ofNat 12 v }.recompute }

/-- EVENT-PENDING (R168): the flags of the sources set are cleared; ALERT is recomputed. -/
def State.setEventPending (s : State) (p : List Byte) : MgmtResult :=
  s.writeItem s.notRestarting 2 maskInRange p fun v => { s with events := s.events.clear (BitVec.ofNat 12 v) }

/-- FRAME-ERRORS (R177): a one-byte payload of any value sets the count to 0. -/
def State.setFrameErrors (s : State) (p : List Byte) : MgmtResult :=
  s.writeItem true 1 (fun _ => true) p fun _ => { s with mgmt := { s.mgmt with frameErrors := 0 } }

/-- SET-ITEM of an item number (R179 check 2, R181): an item outside the table or read-only is BAD-ITEM. -/
def State.setItem (s : State) (item : Nat) (p : List Byte) : MgmtResult :=
  match item with
  | 2 => s.setMemorySize p
  | 3 => s.setRegion 0 p
  | 4 => s.setRegion 1 p
  | 5 => s.setRegion 2 p
  | 6 => s.setRegion 3 p
  | 7 => s.setRegion 4 p
  | 8 => s.setRegion 5 p
  | 9 => s.setRegion 6 p
  | 10 => s.setRegion 7 p
  | 11 => s.setAgeLimit p
  | 12 => s.setCloseAhead p
  | 13 => s.setResponseTimeout p
  | 14 => s.setRetryLimit p
  | 15 => s.setHaltThreshold p
  | 16 => s.setScrubInterval p
  | 17 => s.setScrubPosition p
  | 19 => s.setCorrectedCount p
  | 20 => s.setLogCorrected p
  | 21 => s.setEventEnable p
  | 22 => s.setEventLevel p
  | 23 => s.setEventPending p
  | 28 => s.setFrameErrors p
  | _ => s.refused .badItem

/-- GET-ITEM (R180). -/
def State.getItem (s : State) (item : Nat) (p : List Byte) : MgmtResult :=
  match s.itemValue item with
  | none => s.refused .badItem
  | some v => s.noPayload p fun s => s.answers v

/-! ## State commands (R152) -/

/-- START (R154, R15): accepted in CONFIG and QUIESCED; validation passes or answers BAD-CONFIG with its report. -/
def State.mgmtStart (s : State) (p : List Byte) : MgmtResult :=
  s.acceptedIn (s.control.bridge == .config || s.control.bridge == .quiesced) p fun s =>
    match s.regionMap.validate with
    | some f => ⟨s, .badConfig, f.layout⟩
    | none => s.startRun.okay

/-- QUIESCE (R155): taken in RUN, OK with no change in QUIESCING and QUIESCED (R152). -/
def State.mgmtQuiesce (s : State) (p : List Byte) : MgmtResult :=
  s.acceptedIn (s.control.bridge == .run || s.control.bridge == .quiescing || s.control.bridge == .quiesced) p fun s =>
    if s.control.bridge = .run then s.startQuiesce.okay else s.okay

/-- CONFIGURE (R157): taken in QUIESCED with no entry HELD. -/
def State.mgmtConfigure (s : State) (p : List Byte) : MgmtResult :=
  s.acceptedIn (s.control.bridge == .quiesced && s.buffer.count .held == 0) p fun s => s.startConfig.okay

/-- HALT (R158): taken in CONFIG, RUN, QUIESCING and QUIESCED. -/
def State.mgmtHalt (s : State) (p : List Byte) : MgmtResult :=
  s.acceptedIn (s.control.bridge != .halted && s.notRestarting) p fun s => s.haltCommand.okay

/-- RESTART (R160): taken in every state but RESTARTING. -/
def State.mgmtRestart (s : State) (p : List Byte) : MgmtResult :=
  s.acceptedIn s.notRestarting p fun s => s.startRestart.okay

/-- FLUSH (R32): accepted in RUN. -/
def State.mgmtFlush (s : State) (p : List Byte) : MgmtResult :=
  s.acceptedIn (s.control.bridge == .run) p fun s => s.flushAll.okay

/-! ## Observing (R40, R90) -/

/-- READ-ENTRY (R40): an index of 16 or more is BAD-VALUE. -/
def State.mgmtReadEntry (s : State) (index : Nat) (p : List Byte) : MgmtResult :=
  s.noPayload p fun s =>
    if h : index < 16 then s.answers (s.buffer.entries[index]'h).layout else s.refused .badValue

/-- READ-MASTER (R90, R183): a number of 8 or more is BAD-VALUE. -/
def State.mgmtReadMaster (s : State) (m : Nat) (p : List Byte) : MgmtResult :=
  s.noPayload p fun s => if h : m < 8 then s.answers (s.masters[m]'h).layout else s.refused .badValue

/-! ## RELEASE (R101) -/

/-- The bridge states that accept RELEASE (R101). -/
def BridgeState.releases : BridgeState → Bool
  | .run | .quiescing | .quiesced => true
  | _ => false

/-- RELEASE (R101): state, then entry index and action, then NOT-HELD. -/
def State.mgmtRelease (s : State) (index : Nat) (action : Option (State → EntryIx → State)) : MgmtResult :=
  if s.control.bridge.releases = false then s.refused .badState
  else match action with
  | none => s.refused .badValue
  | some f =>
    if h : index < 16 then
      if (s.buffer.entries[index]'h).state = .held then (f s ⟨index, h⟩).okay else s.refused .notHeld
    else s.refused .badValue

/-- The action a RELEASE payload names: one byte, 0 DISCARD, 1 RETRY, 2 FORCE (R183). -/
def releaseAction : List Byte → Option (State → EntryIx → State)
  | [b] =>
    match b.toNat with
    | 0 => some State.releaseDiscard
    | 1 => some State.releaseRetry
    | 2 => some State.releaseForce
    | _ => none
  | _ => none

/-! ## Faults and events (R164, R165, R171, R172) -/

/-- FAULT-PEEK (R164). -/
def State.mgmtFaultPeek (s : State) (p : List Byte) : MgmtResult :=
  s.noPayload p fun s =>
    match s.faults.records with
    | r :: _ => s.answers r.layout
    | [] => s.refused .empty

/-- FAULT-POP (R164). -/
def State.mgmtFaultPop (s : State) (p : List Byte) : MgmtResult :=
  s.noPayload p fun s =>
    match s.faults.records with
    | r :: rs => { s with faults := { s.faults with records := rs } }.answers r.layout
    | [] => s.refused .empty

/-- FAULT-CLEAR (R165). -/
def State.mgmtFaultClear (s : State) (p : List Byte) : MgmtResult :=
  s.noPayload p fun s => { s with faults := { s.faults with records := [], overflow := 0 } }.okay

/-- NEXT-EVENT (R171): source number 1 to 12, or 0 for NONE. -/
def State.mgmtNextEvent (s : State) (p : List Byte) : MgmtResult :=
  s.noPayload p fun s =>
    match s.events.choose with
    | some i => { s with events := s.events.take i }.answers [BitVec.ofNat 8 (i.val + 1)]
    | none => s.answers [0]

/-- END-SERVICE (R172). -/
def State.mgmtEndService (s : State) (p : List Byte) : MgmtResult :=
  s.noPayload p fun s =>
    if s.events.stack.isEmpty then s.refused .empty else { s with events := s.events.pop }.okay

/-! ## Scrubber (R131) -/

/-- SCRUB-START: accepted in RUN. -/
def State.mgmtScrubStart (s : State) (p : List Byte) : MgmtResult :=
  s.acceptedIn (s.control.bridge == .run) p fun s => s.scrubStart.okay

/-- SCRUB-STOP: accepted in every state but RESTARTING. -/
def State.mgmtScrubStop (s : State) (p : List Byte) : MgmtResult :=
  s.acceptedIn s.notRestarting p fun s => s.scrubStop.okay

/-! ## A command by its code (R184 "Commands") -/

/-- The command of a code with its argument byte; none for codes 0 and 19 to 255 (R179 check 1). -/
def mgmtCommand (code arg : Nat) (p : List Byte) : Option (State → MgmtResult) :=
  match code with
  | 1 => some fun s => s.getItem arg p
  | 2 => some fun s => s.setItem arg p
  | 3 => some fun s => s.mgmtStart p
  | 4 => some fun s => s.mgmtQuiesce p
  | 5 => some fun s => s.mgmtConfigure p
  | 6 => some fun s => s.mgmtHalt p
  | 7 => some fun s => s.mgmtRestart p
  | 8 => some fun s => s.mgmtFlush p
  | 9 => some fun s => s.mgmtReadEntry arg p
  | 10 => some fun s => s.mgmtReadMaster arg p
  | 11 => some fun s => s.mgmtRelease arg (releaseAction p)
  | 12 => some fun s => s.mgmtFaultPeek p
  | 13 => some fun s => s.mgmtFaultPop p
  | 14 => some fun s => s.mgmtFaultClear p
  | 15 => some fun s => s.mgmtNextEvent p
  | 16 => some fun s => s.mgmtEndService p
  | 17 => some fun s => s.mgmtScrubStart p
  | 18 => some fun s => s.mgmtScrubStop p
  | _ => none

end Sys2Proof.Machine
end

