-- ==== Sys2Proof/Machine/Serial.lean ====
section
/-! DEFINITION. The serial frame engine of the management port (12, R174-R178): MSEL, the edges of MCK, the command frame as
its bits arrive, and the response frame as its bits go out. -/
namespace Sys2Proof.Machine

/-- A byte from its bits, most significant first (R174). -/
def byteOfBits (bits : List Bool) : Byte :=
  bits.foldl (fun acc b => (acc <<< 1) ||| (if b then 1 else 0)) 0

/-- Bit `k` of a stream of bytes, each sent most significant bit first (R174). -/
def streamBit (bytes : List Byte) (k : Nat) : Bool := (bytes.getD (k / 8) Config.fillerByte).getLsbD (7 - k % 8)

/-- What a complete command frame is, as its bytes stand (R175, R176, R179). -/
inductive FrameVerdict where
  | incomplete
  | badCheck
  | badCommand
  | command (run : State → MgmtResult)

/-- The verdict on the bytes received: complete at a length byte above 40, and else at the CRC-8 byte (R175). -/
def frameVerdict : List Byte → FrameVerdict
  | code :: arg :: len :: rest =>
    if Config.maxPayload < len.toNat then .badCheck
    else if rest.length < len.toNat + 1 then .incomplete
    else
      let payload := rest.take len.toNat
      if rest.getD len.toNat 0 != crc8 (code :: arg :: len :: payload) then .badCheck
      else match mgmtCommand code.toNat arg.toNat payload with
      | none => .badCommand
      | some f => .command f
  | _ => .incomplete

/-- A complete frame is taken off the engine: no byte of it is left. -/
def State.frameTaken (s : State) : State := { s with mgmt := { s.mgmt with bytes := [], bits := [] } }

/-- A byte of the command frame is complete (R175): the frame goes on, or is answered. -/
def State.frameByte (s : State) (bytes : List Byte) : State :=
  match frameVerdict bytes with
  | .incomplete => { s with mgmt := { s.mgmt with bytes := bytes, bits := [] } }
  | .badCheck => s.reply .badCheck []
  | .badCommand => s.reply .badCommand []
  | .command f => (f s.frameTaken).replied

/-- A rising edge in COMMAND samples MDI (R174). -/
def State.sample (s : State) (mdi : Bool) : State :=
  let bits := s.mgmt.bits ++ [mdi]
  if bits.length < 8 then { s with mgmt := { s.mgmt with bits := bits } }
  else s.frameByte (s.mgmt.bytes ++ [byteOfBits bits])

/-- The stream of REPLY: the filler bytes, then the response frame (R178). -/
def MgmtPort.stream (g : MgmtPort) : List Byte := List.replicate g.fillers Config.fillerByte ++ g.response

/-- Every bit of the stream is out on MDO. -/
def MgmtPort.allOut (g : MgmtPort) : Bool := decide (8 * g.stream.length ≤ g.sent)

/-- A falling edge outside REPLY puts out a filler bit (R174). -/
def MgmtPort.shiftFiller (g : MgmtPort) : MgmtPort := { g with mdo := true }

/-- A falling edge in REPLY puts out the next bit of the stream (R174, R178). -/
def MgmtPort.shiftOut (g : MgmtPort) : MgmtPort :=
  if g.allOut then g.shiftFiller else { g with mdo := streamBit g.stream g.sent, sent := g.sent + 1 }

/-- A rising edge in REPLY: at the eighth of the CRC-8 byte that byte is complete, hence sent, and the engine is TRAILING
(R174, R178). -/
def MgmtPort.completeByte (g : MgmtPort) : MgmtPort := if g.allOut then { g with condition := .trailing } else g

/-- An edge of MCK; ignored while MSEL is deasserted (R174). -/
def State.clock (s : State) (edge : Edge) : State :=
  if s.mgmt.msel = false then s
  else match edge, s.mgmt.condition with
  | .rising mdi, .command => s.sample mdi
  | .rising _, .reply => { s with mgmt := s.mgmt.completeByte }
  | .rising _, _ => s
  | .falling, .reply => { s with mgmt := s.mgmt.shiftOut }
  | .falling, _ => { s with mgmt := s.mgmt.shiftFiller }

/-- MSEL is asserted: the engine enters COMMAND (R174). MSEL asserted already is no assertion (log entry 16). -/
def State.select (s : State) : State :=
  if s.mgmt.msel then s
  else { s with mgmt := { s.mgmt with msel := true, condition := .command, bytes := [], bits := [] } }

/-- A command frame is cut off: COMMAND after at least one bit (R177). -/
def MgmtPort.cutOff (g : MgmtPort) : Bool := g.condition == .command && !(g.bytes.isEmpty && g.bits.isEmpty)

/-- FRAME-ERRORS rises and MGMT-ERROR is raised (R177). -/
def State.frameError (s : State) : State :=
  { s with mgmt := { s.mgmt with frameErrors := saturate Config.byteCountMax s.mgmt.frameErrors } }.raise .mgmtError

/-- The engine returns to IDLE, whatever was received or not yet sent is discarded, and MDO carries filler (R174, R177,
log entries 10, 12). -/
def State.deselected (s : State) : State :=
  { s with mgmt := { s.mgmt with
      msel := false, mdo := true, condition := .idle, bytes := [], bits := [], response := [], fillers := 1, sent := 0 } }

/-- MSEL is deasserted (R174, R177). -/
def State.deselect (s : State) : State := (if s.mgmt.cutOff then s.frameError else s).deselected

end Sys2Proof.Machine
end

