-- ==== Sys2Proof/Machine/Pins.lean ====
section
/-! DEFINITION. What the pins do to the bridge: power-on reset (R151), BUSRST (R147, R148), MSEL (R174, R177) and MCK
(R174, R175, R178). -/
namespace Sys2Proof.Machine

/-- Power-on reset keeps what is not the bridge's own to reset: the levels of the input pins, the waiting commands, and the
counter that the free value of R174 is taken at (log entries 1, 9). -/
def State.powerOn (s : State) : State :=
  { State.reset with
    upstream := { State.reset.upstream with busrst := s.upstream.busrst }
    mgmt := { State.reset.mgmt with msel := s.mgmt.msel, exchanges := s.mgmt.exchanges }
    pending := s.pending }

/-- POWER_ON_RESET (R151): every block at its power-on value. -/
def execPowerOnReset (s : State) : Host.Outcome State Fault Refusal := .next s.powerOn

/-- BUSRST_ASSERTED (R147). -/
def execBusrstAsserted (s : State) : Host.Outcome State Fault Refusal := .next s.busReset.settle

/-- BUSRST is deasserted. -/
def State.busRelease (s : State) : State := { s with upstream := { s.upstream with busrst := false } }

/-- BUSRST_DEASSERTED (R148). -/
def execBusrstDeasserted (s : State) : Host.Outcome State Fault Refusal := .next s.busRelease

/-- MSEL_ASSERT (R174). -/
def execMselAssert (s : State) : Host.Outcome State Fault Refusal := .next s.select

/-- MSEL_DEASSERT (R174, R177). -/
def execMselDeassert (s : State) : Host.Outcome State Fault Refusal := .next s.deselect

/-- MCK_EDGE (R174, R175, R178). -/
def execMckEdge (edge : Edge) (s : State) : Host.Outcome State Fault Refusal := .next (s.clock edge)

end Sys2Proof.Machine
end

