-- ==== Sys2Proof/Machine/Bus.lean ====
section
/-! DEFINITION. The commands of the upstream side: an arrival (R137), an offer of the head (R139), a delivery (R146), and the
responses that records and barriers place (R70, R84, R94). -/
namespace Sys2Proof.Machine

/-- REQUEST_ARRIVAL (R137): a request joins the tail when the port accepts it; otherwise the bus is held and nothing is
recorded (log entry 8). Its count is looked at when the request is at the head (R139). -/
def execRequestArrival (r : Request) (s : State) : Host.Outcome State Fault Refusal :=
  .next (if s.accepts then (s.arrive r).settle else s)

/-- HEAD_OFFER (R138, R139): the head is offered, in a state in which the head is examined (log entry 3). -/
def execHeadOffer (s : State) : Host.Outcome State Fault Refusal :=
  .next (if s.examinable && !s.upstream.intake.isEmpty then s.offerHead.settle else s)

/-- RESPONSE_DELIVERY (R146, R145). -/
def execResponseDelivery (s : State) : Host.Outcome State Fault Refusal := .next s.deliver.settle

/-- READ_RESPONSE_PLACED (R70): when the next slot is a READY read record's (R145, log entry 3). -/
def execReadResponsePlaced (s : State) : Host.Outcome State Fault Refusal :=
  .next (match s.nextGrant with
    | some (.placeRead i) => (s.placeRead i).settle
    | _ => s)

/-- BITOP_RESPONSE_PLACED (R84): when the next slot is a READY bit operation record's (R145, log entry 3). -/
def execBitopResponsePlaced (s : State) : Host.Outcome State Fault Refusal :=
  .next (match s.nextGrant with
    | some (.placeBit i) => (s.placeBit i).settle
    | _ => s)

/-- BARRIER_RESPONSE_PLACED (R94): when the next slot is a finished barrier's (R145, log entry 3). -/
def execBarrierResponsePlaced (s : State) : Host.Outcome State Fault Refusal :=
  .next (match s.nextGrant with
    | some (.placeBarrier m) => (s.placeBarrier m).settle
    | _ => s)

end Sys2Proof.Machine
end

