-- ==== Sys2Proof/Machine/Inside.lean ====
section
/-! DEFINITION. The commands that stand for steps inside the bridge: an age expiry (R28), a close-pending commit (R35), a
dispatch (R49, R51), an issue (R108), a scrub interval expiry (R126), quiesce completion (R156) and restart clearing (R161).
A step whose condition does not hold changes nothing (log entries 3, 16). -/
namespace Sys2Proof.Machine

/-- AGE_EXPIRY (R28). -/
def execAgeExpiry (e : EntryIx) (s : State) : Host.Outcome State Fault Refusal := .next (s.ageExpires e)

/-- CLOSE_PENDING_COMMIT (R35). -/
def execClosePendingCommit (e : EntryIx) (s : State) : Host.Outcome State Fault Refusal :=
  .next (s.closePendingCommit e)

/-- LANE_DISPATCH (R49, R51). -/
def execLaneDispatch (s : State) : Host.Outcome State Fault Refusal :=
  .next (if s.dispatchChoice.isSome then s.dispatch.settle else s)

/-- COMMAND_ISSUE (R108). -/
def execCommandIssue (s : State) : Host.Outcome State Fault Refusal :=
  .next (if s.issueDue then s.issue.settle else s)

/-- SCRUB_INTERVAL_EXPIRY (R126). -/
def execScrubIntervalExpiry (s : State) : Host.Outcome State Fault Refusal := .next s.scrubExpires

/-- QUIESCE_COMPLETE (R156). -/
def execQuiesceComplete (s : State) : Host.Outcome State Fault Refusal :=
  .next (if s.quiesceDue then s.enterQuiesced.settle else s)

/-- RESTART_CLEARING (R161). -/
def execRestartClearing (s : State) : Host.Outcome State Fault Refusal :=
  .next (if s.clearDue then s.clear.settle else s)

end Sys2Proof.Machine
end

