-- ==== Sys2Proof/Machine/Array.lean ====
section
/-! DEFINITION. The commands of the array and of its timers: DONE (R109), FAULT (R110), the completion timer's expiry, the
end of the abort interval, and a completion of an abandoned command (R111). -/
namespace Sys2Proof.Machine

/-- ARRAY_DONE (R109); `words` are the four words of a LINE-READ, and are not looked at for a LINE-WRITE. -/
def execArrayDone (words : Vector CodedWord 4) (s : State) : Host.Outcome State Fault Refusal := .next (s.arrayDone words)

/-- ARRAY_FAULT (R110). -/
def execArrayFault (s : State) : Host.Outcome State Fault Refusal := .next s.arrayFault

/-- COMPLETION_TIMEOUT (R111). -/
def execCompletionTimeout (s : State) : Host.Outcome State Fault Refusal := .next s.completionTimeout

/-- ABORT_INTERVAL_END (R111). -/
def execAbortIntervalEnd (s : State) : Host.Outcome State Fault Refusal := .next s.abortEnd

/-- DISREGARDED_COMPLETION (R111): a completion while the port is ABORTING or IDLE changes nothing; one that comes while a
command is ISSUED is that command's (log entry 16). -/
def execDisregardedCompletion (c : Completion) (s : State) : Host.Outcome State Fault Refusal :=
  .next (match c with
    | .done words => s.arrayDone words
    | .fault => s.arrayFault)

end Sys2Proof.Machine
end

