-- ==== Sys2Proof/Machine/Items.lean ====
section
/-! DEFINITION. The commands that read and write the management port's items (12, R180, R181), and the frames that are not
executed (R175, R176, R179). Each stands for a complete command frame, and leaves its response frame in the port (log
entry 6). -/
namespace Sys2Proof.Machine

/-- BAD_CHECK_FRAME (R175, R176): nothing is executed, and the response carries BAD-CHECK. -/
def execBadCheckFrame (s : State) : Host.Outcome State Fault Refusal := .next (s.reply .badCheck [])

/-- BAD_COMMAND_FRAME (R179): code 0 or 19 to 255; the response carries BAD-COMMAND. -/
def execBadCommandFrame (s : State) : Host.Outcome State Fault Refusal := .next (s.reply .badCommand [])

/-- GET_ITEM (R180). -/
def execGetItem (item : Byte) (payload : List Byte) (s : State) : Host.Outcome State Fault Refusal :=
  .next (s.execute payload fun s => s.getItem item.toNat payload)

/-- SET_ITEM (R181). -/
def execSetItem (item : Byte) (payload : List Byte) (s : State) : Host.Outcome State Fault Refusal :=
  .next (s.execute payload fun s => s.setItem item.toNat payload)

/-- SET_REGION (R6): SET-ITEM of REGION-n. -/
def execSetRegion (n : RegionIx) (payload : List Byte) (s : State) : Host.Outcome State Fault Refusal :=
  .next (s.execute payload fun s => s.setRegion n payload)

/-- SET_MEMORY_SIZE (R3, R4). -/
def execSetMemorySize (payload : List Byte) (s : State) : Host.Outcome State Fault Refusal :=
  .next (s.execute payload fun s => s.setMemorySize payload)

/-- SET_CLOSE_AHEAD (R25). -/
def execSetCloseAhead (payload : List Byte) (s : State) : Host.Outcome State Fault Refusal :=
  .next (s.execute payload fun s => s.setCloseAhead payload)

/-- SET_SCRUB_POSITION (R132). -/
def execSetScrubPosition (payload : List Byte) (s : State) : Host.Outcome State Fault Refusal :=
  .next (s.execute payload fun s => s.setScrubPosition payload)

/-- SET_CORRECTED_COUNT (R120). -/
def execSetCorrectedCount (payload : List Byte) (s : State) : Host.Outcome State Fault Refusal :=
  .next (s.execute payload fun s => s.setCorrectedCount payload)

/-- SET_FRAME_ERRORS (R177). -/
def execSetFrameErrors (payload : List Byte) (s : State) : Host.Outcome State Fault Refusal :=
  .next (s.execute payload fun s => s.setFrameErrors payload)

/-- SET_EVENT_ENABLE (R167). -/
def execSetEventEnable (payload : List Byte) (s : State) : Host.Outcome State Fault Refusal :=
  .next (s.execute payload fun s => s.setEventEnable payload)

/-- SET_EVENT_LEVEL (R167). -/
def execSetEventLevel (payload : List Byte) (s : State) : Host.Outcome State Fault Refusal :=
  .next (s.execute payload fun s => s.setEventLevel payload)

/-- SET_EVENT_PENDING (R168). -/
def execSetEventPending (payload : List Byte) (s : State) : Host.Outcome State Fault Refusal :=
  .next (s.execute payload fun s => s.setEventPending payload)

end Sys2Proof.Machine
end

