-- ==== Sys2Proof/Machine/Commands.lean ====
section
/-! DEFINITION. The management commands other than GET-ITEM and SET-ITEM (12, R183). Each stands for a complete command frame,
and leaves its response frame in the port (log entry 6). -/
namespace Sys2Proof.Machine

/-- START (R154, R15). -/
def execStart (payload : List Byte) (s : State) : Host.Outcome State Fault Refusal :=
  .next (s.execute payload fun s => s.mgmtStart payload)

/-- QUIESCE (R155). -/
def execQuiesce (payload : List Byte) (s : State) : Host.Outcome State Fault Refusal :=
  .next (s.execute payload fun s => s.mgmtQuiesce payload)

/-- CONFIGURE (R157). -/
def execConfigure (payload : List Byte) (s : State) : Host.Outcome State Fault Refusal :=
  .next (s.execute payload fun s => s.mgmtConfigure payload)

/-- HALT (R158). -/
def execHalt (payload : List Byte) (s : State) : Host.Outcome State Fault Refusal :=
  .next (s.execute payload fun s => s.mgmtHalt payload)

/-- RESTART (R160). -/
def execRestart (payload : List Byte) (s : State) : Host.Outcome State Fault Refusal :=
  .next (s.execute payload fun s => s.mgmtRestart payload)

/-- FLUSH (R32). -/
def execFlush (payload : List Byte) (s : State) : Host.Outcome State Fault Refusal :=
  .next (s.execute payload fun s => s.mgmtFlush payload)

/-- FAULT_PEEK (R164). -/
def execFaultPeek (payload : List Byte) (s : State) : Host.Outcome State Fault Refusal :=
  .next (s.execute payload fun s => s.mgmtFaultPeek payload)

/-- FAULT_POP (R164). -/
def execFaultPop (payload : List Byte) (s : State) : Host.Outcome State Fault Refusal :=
  .next (s.execute payload fun s => s.mgmtFaultPop payload)

/-- FAULT_CLEAR (R165). -/
def execFaultClear (payload : List Byte) (s : State) : Host.Outcome State Fault Refusal :=
  .next (s.execute payload fun s => s.mgmtFaultClear payload)

/-- NEXT_EVENT (R171). -/
def execNextEvent (payload : List Byte) (s : State) : Host.Outcome State Fault Refusal :=
  .next (s.execute payload fun s => s.mgmtNextEvent payload)

/-- END_SERVICE (R172). -/
def execEndService (payload : List Byte) (s : State) : Host.Outcome State Fault Refusal :=
  .next (s.execute payload fun s => s.mgmtEndService payload)

/-- SCRUB_START (R131). -/
def execScrubStart (payload : List Byte) (s : State) : Host.Outcome State Fault Refusal :=
  .next (s.execute payload fun s => s.mgmtScrubStart payload)

/-- SCRUB_STOP (R131). -/
def execScrubStop (payload : List Byte) (s : State) : Host.Outcome State Fault Refusal :=
  .next (s.execute payload fun s => s.mgmtScrubStop payload)

/-- READ_ENTRY (R40). -/
def execReadEntry (index : Byte) (payload : List Byte) (s : State) : Host.Outcome State Fault Refusal :=
  .next (s.execute payload fun s => s.mgmtReadEntry index.toNat payload)

/-- READ_MASTER (R90). -/
def execReadMaster (master : Byte) (payload : List Byte) (s : State) : Host.Outcome State Fault Refusal :=
  .next (s.execute payload fun s => s.mgmtReadMaster master.toNat payload)

/-- RELEASE_DISCARD (R101, R102). -/
def execReleaseDiscard (index : Byte) (s : State) : Host.Outcome State Fault Refusal :=
  .next (s.mgmtRelease index.toNat (some State.releaseDiscard)).replied

/-- RELEASE_RETRY (R101, R103, R105). -/
def execReleaseRetry (index : Byte) (s : State) : Host.Outcome State Fault Refusal :=
  .next (s.mgmtRelease index.toNat (some State.releaseRetry)).replied

/-- RELEASE_FORCE (R101, R104, R105). -/
def execReleaseForce (index : Byte) (s : State) : Host.Outcome State Fault Refusal :=
  .next (s.mgmtRelease index.toNat (some State.releaseForce)).replied

end Sys2Proof.Machine
end

