-- ==== Sys2Proof/Machine/Dispatch.lean ====
section
/-! DEFINITION. The effect of each command on everything but the queue: one arm per row of spec/opcode_table.json. -/
namespace Sys2Proof.Machine

/-- One command's effect. -/
def exec (i : Instr) (s : State) : Host.Outcome State Fault Refusal :=
  match i with
  | .powerOnReset => Sys2Proof.Machine.execPowerOnReset s
  | .busrstAsserted => Sys2Proof.Machine.execBusrstAsserted s
  | .busrstDeasserted => Sys2Proof.Machine.execBusrstDeasserted s
  | .requestArrival r => Sys2Proof.Machine.execRequestArrival r s
  | .headOffer => Sys2Proof.Machine.execHeadOffer s
  | .responseDelivery => Sys2Proof.Machine.execResponseDelivery s
  | .readResponsePlaced => Sys2Proof.Machine.execReadResponsePlaced s
  | .bitopResponsePlaced => Sys2Proof.Machine.execBitopResponsePlaced s
  | .barrierResponsePlaced => Sys2Proof.Machine.execBarrierResponsePlaced s
  | .ageExpiry e => Sys2Proof.Machine.execAgeExpiry e s
  | .closePendingCommit e => Sys2Proof.Machine.execClosePendingCommit e s
  | .laneDispatch => Sys2Proof.Machine.execLaneDispatch s
  | .commandIssue => Sys2Proof.Machine.execCommandIssue s
  | .arrayDone words => Sys2Proof.Machine.execArrayDone words s
  | .arrayFault => Sys2Proof.Machine.execArrayFault s
  | .completionTimeout => Sys2Proof.Machine.execCompletionTimeout s
  | .abortIntervalEnd => Sys2Proof.Machine.execAbortIntervalEnd s
  | .scrubIntervalExpiry => Sys2Proof.Machine.execScrubIntervalExpiry s
  | .quiesceComplete => Sys2Proof.Machine.execQuiesceComplete s
  | .restartClearing => Sys2Proof.Machine.execRestartClearing s
  | .mselAssert => Sys2Proof.Machine.execMselAssert s
  | .mselDeassert => Sys2Proof.Machine.execMselDeassert s
  | .badCheckFrame => Sys2Proof.Machine.execBadCheckFrame s
  | .getItem item p => Sys2Proof.Machine.execGetItem item p s
  | .setItem item p => Sys2Proof.Machine.execSetItem item p s
  | .setMemorySize p => Sys2Proof.Machine.execSetMemorySize p s
  | .setRegion n p => Sys2Proof.Machine.execSetRegion n p s
  | .setCloseAhead p => Sys2Proof.Machine.execSetCloseAhead p s
  | .setScrubPosition p => Sys2Proof.Machine.execSetScrubPosition p s
  | .setCorrectedCount p => Sys2Proof.Machine.execSetCorrectedCount p s
  | .setFrameErrors p => Sys2Proof.Machine.execSetFrameErrors p s
  | .setEventEnable p => Sys2Proof.Machine.execSetEventEnable p s
  | .setEventLevel p => Sys2Proof.Machine.execSetEventLevel p s
  | .setEventPending p => Sys2Proof.Machine.execSetEventPending p s
  | .start p => Sys2Proof.Machine.execStart p s
  | .quiesce p => Sys2Proof.Machine.execQuiesce p s
  | .configure p => Sys2Proof.Machine.execConfigure p s
  | .halt p => Sys2Proof.Machine.execHalt p s
  | .restart p => Sys2Proof.Machine.execRestart p s
  | .flush p => Sys2Proof.Machine.execFlush p s
  | .readEntry index p => Sys2Proof.Machine.execReadEntry index p s
  | .readMaster master p => Sys2Proof.Machine.execReadMaster master p s
  | .releaseDiscard index => Sys2Proof.Machine.execReleaseDiscard index s
  | .releaseRetry index => Sys2Proof.Machine.execReleaseRetry index s
  | .releaseForce index => Sys2Proof.Machine.execReleaseForce index s
  | .faultPeek p => Sys2Proof.Machine.execFaultPeek p s
  | .faultPop p => Sys2Proof.Machine.execFaultPop p s
  | .faultClear p => Sys2Proof.Machine.execFaultClear p s
  | .nextEvent p => Sys2Proof.Machine.execNextEvent p s
  | .endService p => Sys2Proof.Machine.execEndService p s
  | .scrubStart p => Sys2Proof.Machine.execScrubStart p s
  | .scrubStop p => Sys2Proof.Machine.execScrubStop p s
  | .mckEdge edge => Sys2Proof.Machine.execMckEdge edge s
  | .disregardedCompletion c => Sys2Proof.Machine.execDisregardedCompletion c s
  | .badCommandFrame => Sys2Proof.Machine.execBadCommandFrame s

end Sys2Proof.Machine
end

