-- ==== Sys2Proof/Machine/Step.lean ====
section
/-! DEFINITION. One step of the block: the command at the front of the queue, or one microsecond on an empty queue. -/
namespace Sys2Proof.Machine

/-- `s` with the command the word spells at the front of its queue; no row of the table gives bits, so no word spells one
(log entry 18). -/
def State.withFetchWord (s : State) (nbits w : Nat) : State :=
  match decodeTableWord nbits w with
  | some c => { s with pending := c :: s.pending }
  | none => s

/-- The command at the front of the queue takes effect on the state with the queue's rest; on an empty queue one microsecond
passes (log entry 4). -/
def step (s : State) : Host.Outcome State Fault Refusal :=
  match s.pending with
  | c :: rest => exec c { s with pending := rest }
  | [] => .next s.microsecond

end Sys2Proof.Machine
end

