-- ==== Sys2Proof/Safety.lean ====
section
/-! DEFINITION. What a consistent state of the bridge is: the laws the manual states over every state (R17, R18, R20, R46-R48,
R93, R108, R125, R137, R144, R151, R153, R156, R163, R169, R170), one definition for each. A run is safe when every
state it passes through keeps them; the model's commands raise no fault (State.lean, `Fault`). -/
namespace Sys2Proof.Machine

/-! ## Combine buffer -/

/-- R18: two entries of one line that are both OPEN, or both predecessors, are one entry, and an OPEN entry shares its line with
no HELD entry. -/
def CombineBuffer.lineLaw (b : CombineBuffer) : Prop :=
  ∀ i j : EntryIx, b.entries[i].line = b.entries[j].line →
    (b.entries[i].state = .opened → b.entries[j].state = .opened → i = j) ∧
    (b.entries[i].state.isPredecessor = true → b.entries[j].state.isPredecessor = true → i = j) ∧
    (b.entries[i].state = .opened → b.entries[j].state ≠ .held)

/-- R16, R17: the line is absent exactly when FREE, and so is the valid set empty exactly when FREE; a held reason is present
exactly in HELD; a timer runs only in OPEN. -/
def CombineBuffer.entryLaw (b : CombineBuffer) : Prop :=
  ∀ i : EntryIx,
    (b.entries[i].line = none ↔ b.entries[i].state = .free) ∧
    (b.entries[i].valid = 0 ↔ b.entries[i].state = .free) ∧
    (b.entries[i].heldReason.isSome = true ↔ b.entries[i].state = .held) ∧
    (b.entries[i].ageTimer.isSome = true → b.entries[i].state = .opened)

/-- R20: the open order list holds the OPEN entries, each once. -/
def CombineBuffer.openOrderLaw (b : CombineBuffer) : Prop :=
  b.openOrder.Nodup ∧ ∀ i : EntryIx, i ∈ b.openOrder ↔ b.entries[i].state = .opened

/-! ## Operation list and lanes -/

/-- The operation drains entry `e`. -/
def Operation.drains (e : EntryIx) (o : Operation) : Bool :=
  match o.work with
  | .drain _ f => f == e
  | _ => false

/-- The operation is IN-FLIGHT. -/
def Operation.flying (o : Operation) : Bool := o.phase != .queued

/-- R46: an operation that is IN-FLIGHT is the first of its line in the list; so at most one operation of a line is
IN-FLIGHT. -/
def OperationList.lineLock (l : OperationList) : Prop :=
  ∀ i j : Nat, ∀ a b : Operation, l.ops[i]? = some a → l.ops[j]? = some b → i < j → a.line = b.line → b.phase = .queued

/-- R47: a COMMITTED entry has exactly one drain, QUEUED, a DRAINING entry exactly one, IN-FLIGHT, and any other entry none. -/
def State.drainLaw (s : State) : Prop :=
  ∀ e : EntryIx,
    match s.buffer.entries[e].state with
    | .committed => (s.opList.ops.filter (·.drains e)).map (·.flying) = [false]
    | .draining => (s.opList.ops.filter (·.drains e)).map (·.flying) = [true]
    | .free | .opened | .held => s.opList.ops.filter (·.drains e) = []

/-- R48: a BUSY lane has exactly one IN-FLIGHT operation, whose phase names the lane, and an IDLE lane has none. -/
def State.laneLaw (s : State) : Prop :=
  ∀ k : LaneIx, (s.opList.ops.filter fun o => o.phase == .inFlight k).length = (if s.lanes[k] = .idle then 0 else 1)

/-- R126: at most one SCRUB is listed. -/
def State.scrubLaw (s : State) : Prop := (s.opList.ops.filter Operation.isScrub).length ≤ 1

/-! ## Barriers -/

/-- R93: a wait set holds only entries that are OPEN, COMMITTED or DRAINING and have the barrier's master among their
contributors. -/
def State.waitSetLaw (s : State) : Prop :=
  ∀ m : MasterIx, ∀ e : EntryIx, ∀ b : Barrier, s.masters[m].barrier = some b → b.waitSet.getLsbD e = true →
    s.buffer.waitsFor m e = true

/-! ## Ports -/

/-- R108: the abort line is asserted exactly in ABORTING. -/
def ArrayPort.abortLaw (p : ArrayPort) : Prop := p.abortLine = p.condition.aborts

/-- R137, R144: the intake holds at most 8 requests, and the response queue at most 16 responses. -/
def Upstream.queueLaw (u : Upstream) : Prop :=
  u.intake.length ≤ Config.intakeDepth ∧ u.responses.length ≤ Config.responseDepth

/-! ## Scrubber and bridge state -/

/-- R125: the interval timer counts exactly in RUN with the running flag running. -/
def State.scrubTimerLaw (s : State) : Prop :=
  s.scrub.timer.isSome = true ↔ (s.control.bridge = .run ∧ s.scrub.running = true)

/-- R151: a halt cause is present in HALTED, and otherwise only in RESTARTING. -/
def Control.causeLaw (c : Control) : Prop :=
  (c.bridge = .halted → c.haltCause.isSome = true) ∧
    (c.haltCause.isSome = true → c.bridge = .halted ∨ c.bridge = .restarting)

/-- No operation is listed, and no record is in use (R153, R156). -/
def State.noWork (s : State) : Prop :=
  s.opList.ops = [] ∧ (∀ i : ReadIx, s.reads[i] = .free) ∧ ∀ i : BitIx, s.bitops[i] = .free

/-- R153: in CONFIG every entry is FREE, the operation list is empty, and no record is in use. -/
def State.configLaw (s : State) : Prop :=
  s.control.bridge = .config → s.noWork ∧ ∀ e : EntryIx, s.buffer.entries[e].state = .free

/-- R156: in QUIESCED no entry is OPEN, COMMITTED or DRAINING, the operation list is empty, and no record is in use. -/
def State.quiescedLaw (s : State) : Prop :=
  s.control.bridge = .quiesced →
    s.noWork ∧ ∀ e : EntryIx, s.buffer.entries[e].state = .free ∨ s.buffer.entries[e].state = .held

/-! ## Faults, events, counts -/

/-- R163: at most 8 records, and the overflow count at most 255. -/
def FaultQueue.sizeLaw (q : FaultQueue) : Prop :=
  q.records.length ≤ Config.faultDepth ∧ q.overflow ≤ Config.byteCountMax

/-- R170: ALERT is asserted exactly while an enabled pending source has a level above the current service level. -/
def EventUnit.alertLaw (u : EventUnit) : Prop := u.alert = u.alertNow

/-- R169: the possible contents of the service stack, bottom first. -/
def EventUnit.stackLaw (u : EventUnit) : Prop :=
  u.stack = [] ∨ u.stack = [.routine] ∨ u.stack = [.urgent] ∨ u.stack = [.routine, .urgent]

/-- R166: source 1, HALT, is always enabled and URGENT. -/
def EventUnit.haltSourceLaw (u : EventUnit) : Prop := u.enable.getLsbD 0 = true ∧ u.urgent.getLsbD 0 = true

/-- R89, R113, R120, R177: the saturating counts stay within their maxima. -/
def State.countLaw (s : State) : Prop :=
  s.port.failures ≤ Config.failuresMax ∧ s.port.correctedCount ≤ Config.correctedMax ∧
    s.mgmt.frameErrors ≤ Config.byteCountMax ∧
    ∀ m : MasterIx, ∀ d : Deferred, s.masters[m].deferred = some d → d.further ≤ Config.byteCountMax

end Sys2Proof.Machine
end

