-- ==== Sys2Proof/Certificates/Slice0/Obligations.lean ====
section
/-! DEFINITION. The statements for the provers, each a def of type Prop. A result written `u.settle` is the command's own effect
`u` followed by what the same event brings about (log entry 2); `SettleLeavesNothingDue` and `SettleFrame` say what that can
be. -/
open Sys2Proof Sys2Proof.Machine

/-! ## The step, the queue and the resets -/

/-- The command at the front of the queue is what a step runs (log entry 18). -/
def Obligations.StepRunsTheFrontCommand : Prop :=
  ∀ (s : State) (c : Instr) (rest : List Instr), s.pending = c :: rest →
    Machine.step s = exec c { s with pending := rest }

/-- On an empty queue one microsecond passes; while no timer runs out, the timers are all that changes. Second part: the
timers that have run out expire at the same microsecond, each as its own command says: the completion timer or the abort
interval first, then the age timers by entry number, then the scrub interval timer (log entry 4). An age timer of a
close-pending entry has no expiry left (R28, log entry 11). -/
def Obligations.QuietMicrosecondRunsTheTimers : Prop :=
  ∀ s : State, s.pending = [] →
    let ticked : State := { s with
      buffer := { s.buffer with
        entries := s.buffer.entries.map fun x => { x with ageTimer := x.ageTimer.map (· - 1) } }
      port := { s.port with
        condition := match s.port.condition with
          | .idle => .idle
          | .issued c t => .issued c (t - 1)
          | .aborting r t => .aborting r (t - 1) }
      scrub := { s.scrub with timer := s.scrub.timer.map (· - 1) } }
    let run (c : Instr) (t : State) : State := match exec c t with
      | .next u => u
      | _ => t
    let portFired := match ticked.port.condition with
      | .issued _ 0 => run .completionTimeout ticked
      | .aborting _ 0 => run .abortIntervalEnd ticked
      | _ => ticked
    let aged := (List.finRange 16).foldl (fun (t : State) (e : EntryIx) =>
      if t.buffer.entries[e].ageTimer = some 0 ∧ t.buffer.entries[e].closePending = false then run (.ageExpiry e) t
      else t) portFired
    ((∀ c t, s.port.condition = .issued c t → 2 ≤ t) → (∀ r t, s.port.condition = .aborting r t → 2 ≤ t) →
      (∀ (e : EntryIx) (t : Nat), s.buffer.entries[e].ageTimer = some t → 2 ≤ t) →
      (∀ t, s.scrub.timer = some t → 2 ≤ t) → Machine.step s = .next ticked) ∧
    Machine.step s = .next (if aged.scrub.timer = some 0 then run .scrubIntervalExpiry aged else aged)

/-- A command touches no waiting command (log entry 18). -/
def Obligations.CommandsKeepTheQueue : Prop :=
  ∀ (c : Instr) (s t : State), exec c s = .next t → t.pending = s.pending

/-- The state after power-on reset keeps every law of Safety.lean. -/
def Obligations.ResetKeepsEveryLaw : Prop :=
  let s := State.reset
  s.buffer.lineLaw ∧ s.buffer.entryLaw ∧ s.buffer.openOrderLaw ∧ s.opList.lineLock ∧ s.drainLaw ∧ s.laneLaw ∧
    s.scrubLaw ∧ s.waitSetLaw ∧ s.port.abortLaw ∧ s.upstream.queueLaw ∧ s.scrubTimerLaw ∧ s.control.causeLaw ∧ s.configLaw ∧
    s.quiescedLaw ∧ s.faults.sizeLaw ∧ s.events.alertLaw ∧ s.events.stackLaw ∧ s.events.haltSourceLaw ∧ s.countLaw

/-- POWER_ON_RESET leaves the reset state, whose items are those of the item table (R181); the levels of the input pins, the
waiting commands and the model's exchange counter are kept (log entries 1, 9). -/
def Obligations.PowerOnResetsEveryBlock : Prop :=
  (∀ s : State, exec .powerOnReset s = .next { State.reset with
    upstream := { State.reset.upstream with busrst := s.upstream.busrst }
    mgmt := { State.reset.mgmt with msel := s.mgmt.msel, exchanges := s.mgmt.exchanges }
    pending := s.pending }) ∧
  (List.range 30).map State.reset.itemValue =
    [some [23, 192, 15, 1], some [0, 0], some [0]] ++ List.replicate 8 (some [0, 3, 0, 0, 0, 0, 0, 0, 0, 0, 0, 0]) ++
    [some [64, 0], some [2], some [20], some [1], some [4], some [232, 3], some [0, 0, 0, 0, 0], some [0, 0], some [0, 0],
      some [0], some [255, 9], some [15, 0], some [0, 0], some [0, 0, 0, 0], some [0, 0], some [16], some [0], some [0],
      none]

/-! ## Invariants kept by every step -/

/-- R18. -/
def Obligations.OneOpenAndOnePredecessorPerLine : Prop :=
  ∀ s t : State, s.buffer.lineLaw → Machine.step s = .next t → t.buffer.lineLaw

/-- R20. -/
def Obligations.OpenOrderListsTheOpenEntries : Prop :=
  ∀ s t : State, s.buffer.openOrderLaw → Machine.step s = .next t → t.buffer.openOrderLaw

/-- R16, R17, with the bounds of the queues (R137, R144). -/
def Obligations.EntryFieldsFollowTheState : Prop :=
  ∀ s t : State, s.buffer.entryLaw ∧ s.upstream.queueLaw → Machine.step s = .next t →
    t.buffer.entryLaw ∧ t.upstream.queueLaw

/-- R46, and at most one SCRUB is listed (R126). -/
def Obligations.OneOperationPerLineInFlight : Prop :=
  ∀ s t : State, s.opList.lineLock ∧ s.scrubLaw → Machine.step s = .next t → t.opList.lineLock ∧ t.scrubLaw

/-- R47, with the laws it rests on. -/
def Obligations.DrainsMatchTheEntries : Prop :=
  ∀ s t : State, s.drainLaw ∧ s.laneLaw ∧ s.buffer.entryLaw → Machine.step s = .next t →
    t.drainLaw ∧ t.laneLaw ∧ t.buffer.entryLaw

/-- R93. -/
def Obligations.WaitSetsHoldEntriesOnTheirWay : Prop :=
  ∀ s t : State, s.waitSetLaw → Machine.step s = .next t → t.waitSetLaw

/-- R153, R156, R125 and the halt cause of R151. -/
def Obligations.BridgeStateLawsAreKept : Prop :=
  ∀ s t : State, s.configLaw ∧ s.quiescedLaw ∧ s.scrubTimerLaw ∧ s.control.causeLaw → Machine.step s = .next t →
    t.configLaw ∧ t.quiescedLaw ∧ t.scrubTimerLaw ∧ t.control.causeLaw

/-- R169, R170, and the fixed settings of source 1 (R167). -/
def Obligations.AlertFollowsTheEventUnit : Prop :=
  ∀ s t : State, s.events.alertLaw ∧ s.events.stackLaw ∧ s.events.haltSourceLaw → Machine.step s = .next t →
    t.events.alertLaw ∧ t.events.stackLaw ∧ t.events.haltSourceLaw

/-- R163, R89, R113, R120, R177, and the abort line of R108. -/
def Obligations.CountsStayWithinTheirMaxima : Prop :=
  ∀ s t : State, s.faults.sizeLaw ∧ s.countLaw ∧ s.port.abortLaw → Machine.step s = .next t →
    t.faults.sizeLaw ∧ t.countLaw ∧ t.port.abortLaw

/-! ## What an event brings about -/

/-- After an event no slot grant, head offer, dispatch, issue, quiesce completion or clearing step is due (R49, R70, R84, R108,
R138, R145, R156, R160; log entry 2). -/
def Obligations.SettleLeavesNothingDue : Prop :=
  ∀ s : State, s.upstream.intake.length ≤ 8 → s.settle.nextInternal = none

/-- What an event's consequences never change: the items, the management port, the scrub position and pass count, the
corrected count, BUSRST and the queue of commands (log entry 2). -/
def Obligations.SettleFrame : Prop :=
  ∀ s : State,
    let t := s.settle
    t.regionMap = s.regionMap ∧ t.mgmt = s.mgmt ∧ t.pending = s.pending ∧ t.upstream.busrst = s.upstream.busrst ∧
      t.buffer.ageLimit = s.buffer.ageLimit ∧ t.buffer.closeAhead = s.buffer.closeAhead ∧
      t.scrub.position = s.scrub.position ∧ t.scrub.passes = s.scrub.passes ∧ t.scrub.interval = s.scrub.interval ∧
      t.port.correctedCount = s.port.correctedCount ∧ t.port.responseTimeout = s.port.responseTimeout ∧
      t.port.retryLimit = s.port.retryLimit ∧ t.port.haltThreshold = s.port.haltThreshold ∧
      t.port.logCorrected = s.port.logCorrected ∧ t.events.enable = s.events.enable ∧ t.events.urgent = s.events.urgent

/-! ## The upstream port -/

/-- BUSRST_ASSERTED (R147, R60, R71, R85). -/
def Obligations.BusResetEmptiesTheUpstreamSide : Prop :=
  ∀ s : State, exec .busrstAsserted s = .next (State.settle { s with
    upstream := { intake := [], headWait := .none, offerDue := false, responses := [], busrst := true }
    reads := Vector.ofFn fun i => match s.reads[i] with
      | .waitFill r => if s.opList.ops.any (fun o => match o.work, o.phase with
          | .fill readers, .inFlight _ => decide (i ∈ readers)
          | _, _ => false) then .orphaned r else .free
      | .orphaned r => .orphaned r
      | .ready _ _ _ | .free => .free
    bitops := Vector.ofFn fun i => match s.bitops[i] with
      | .inFlight b _ | .orphaned b => .orphaned b
      | .queued _ | .ready _ _ _ | .free => .free
    opList := { s.opList with ops := s.opList.ops.filter fun o => match o.work, o.phase with
      | .fill _, .queued | .bitop _, .queued => false
      | _, _ => true }
    masters := Vector.replicate 8 { tags := 0, barrier := none, deferred := none }
    events := s.events.raise .busReset })

/-- BUSRST_DEASSERTED, MSEL_ASSERT and MSEL_DEASSERT (R148, R174, R177). -/
def Obligations.PinLevelsAreTakenUp : Prop :=
  ∀ s : State,
    exec .busrstDeasserted s = .next { s with upstream := { s.upstream with busrst := false } } ∧
    (s.mgmt.msel = false → exec .mselAssert s =
      .next { s with mgmt := { s.mgmt with msel := true, condition := .command, bytes := [], bits := [] } }) ∧
    (s.mgmt.msel = true → exec .mselAssert s = .next s) ∧
    (let idle := { s.mgmt with
        msel := false, mdo := true, condition := .idle, bytes := [], bits := [], response := [], fillers := 1, sent := 0 }
     ((s.mgmt.condition = .command ∧ (s.mgmt.bytes ≠ [] ∨ s.mgmt.bits ≠ [])) → exec .mselDeassert s =
        .next { s with
          mgmt := { idle with frameErrors := min 255 (s.mgmt.frameErrors + 1) }
          events := s.events.raise .mgmtError }) ∧
     (¬(s.mgmt.condition = .command ∧ (s.mgmt.bytes ≠ [] ∨ s.mgmt.bits ≠ [])) → exec .mselDeassert s =
        .next { s with mgmt := idle }))

/-- REQUEST_ARRIVAL (R137; log entry 8), and the events that make a fresh offer of a waiting head due (R138): any change of an
entry for a write (R26), an entry of its line or a record freed for a bit operation (R79), while its refusal waits for a slot
too (R96, R102, log entry 26), a record or slot freed or the line's overlay lost for a read (R66), a slot freed, whoever is
granted it, for a barrier (R91, log entry 27). -/
def Obligations.ArrivalsJoinTheIntake : Prop :=
  (∀ (s : State) (r : Request),
    (s.upstream.intake.length < 8 → s.control.bridge ≠ .restarting → s.upstream.busrst = false →
      exec (.requestArrival r) s = .next (State.settle { s with upstream := { s.upstream with
        intake := s.upstream.intake ++ [r], offerDue := s.upstream.offerDue || s.upstream.intake.isEmpty } })) ∧
    ((8 ≤ s.upstream.intake.length ∨ s.control.bridge = .restarting ∨ s.upstream.busrst = true) →
      exec (.requestArrival r) s = .next s)) ∧
  ∀ (s : State) (w : Wake),
    let wakes : Prop := match s.upstream.headWait, w with
      | .freeEntry _, .entryChanged _ | .bitOp _, .bitFreed | .slot (some _), .bitFreed | .read _, .readFreed
      | .read _, .slotFreed | .barrier, .slotFreed => True
      | .bitOp l, .entryChanged l' | .slot (some l), .entryChanged l' | .read l, .overlayLost l' => l = l'
      | _, _ => False
    (wakes → s.wake w = { s with upstream := { s.upstream with offerDue := true } }) ∧ (¬wakes → s.wake w = s)

/-- HEAD_OFFER of a READ, bit operation or BARRIER that fails a check 1 to 5 of R139, by R140: the REFUSED response enters when
a slot is available, TAG-CLASH with its fault, and the request waits otherwise, a bit operation in its wait of R79 for the
entries of its line as well, a BARRIER for any slot that is freed (R91, log entry 27). A READ with a count of 0 fails check 3
by log entry 15's choice; R76 says it of a bit operation. (Check 6 is in `BitOperationsAreAdmitted` and
`BarriersAreAnsweredOrRecorded`.) -/
def Obligations.NonWritesAreRefused : Prop :=
  ∀ (s : State) (q : Request) (rest : List Request) (m : MasterIx) (t : Tag) (a : Option UpAddr) (k : ReqKind)
    (st : RefusalStatus) (aligned : Prop),
    s.upstream.intake = q :: rest → s.upstream.busrst = false →
    (∃ b n, q = .read m t b n ∧ a = some b ∧ k = .read ∧ (aligned ↔ 1 ≤ n ∧ b.toNat % 32 + n ≤ 32)) ∨
      (∃ j b d, q = .bitOp j m t b d ∧ a = some b ∧ k = .bits j ∧
        (aligned ↔ 1 ≤ d.length ∧ b.toNat % 8 + d.length ≤ 8)) ∨
      (q = .barrier m t ∧ a = none ∧ k = .barrier) →
    let run := s.control.bridge = .run
    let clash := s.masters[m].tags.getLsbD t = true
    let look (b : UpAddr) : Lookup := s.regionMap.lookup m (decide (k ≠ .read)) b
    (s.control.bridge = .config ∧ st = .notRunning) ∨ (s.control.bridge = .halted ∧ st = .halted) ∨
      (run ∧ clash ∧ st = .tagClash) ∨
      (∃ b, a = some b ∧ run ∧ ¬clash ∧ ((¬aligned ∧ st = .misaligned) ∨ (aligned ∧ look b = .unmapped ∧ st = .unmapped) ∨
        (aligned ∧ (∃ n c, look b = .denied n c) ∧ st = .denied))) →
    let s1 : State := { s with upstream := { s.upstream with
      intake := rest, headWait := .none, offerDue := !rest.isEmpty
      responses := s.upstream.responses ++ [.refused m t st] } }
    let waited : Option Nat := match s.upstream.headWait with
      | .bitOp L => some L
      | .slot L => L
      | _ => none
    let wait : HeadWait := match k with
      | .bits _ => .slot waited
      | .barrier => .barrier
      | .read | .write => .slot none
    (s.upstream.responses.length < 16 → exec .headOffer s = .next (State.settle
      (if st = .tagClash then s1.logFault ⟨0, .tagClash k, some m, some t, a, none, none, none, none⟩ else s1))) ∧
    (16 ≤ s.upstream.responses.length → exec .headOffer s = .next (State.settle { s with upstream := { s.upstream with
      headWait := wait, offerDue := false } }))

/-- HEAD_OFFER of a WRITE that fails check 1, 3, 4 or 5 (R141). A count of 0 fails check 3 by log entry 15's choice. -/
def Obligations.RefusedWritesAreRecorded : Prop :=
  ∀ (s : State) (rest : List Request) (m : MasterIx) (t : Tag) (a : UpAddr) (bytes : List Byte) (f : FaultKind)
    (d : DeferredKind),
    s.upstream.intake = .write m t a bytes :: rest → s.upstream.busrst = false →
    let aligned := 1 ≤ bytes.length ∧ a.toNat % 32 + bytes.length ≤ 32
    (((s.control.bridge = .config ∨ s.control.bridge = .halted) ∧
        f = .writeNotRunning s.control.bridge ∧ d = .writeNotRunning) ∨
      (s.control.bridge = .run ∧ ¬aligned ∧ f = .writeMisaligned (a.toNat % 32) bytes.length ∧ d = .writeMisaligned) ∨
      (s.control.bridge = .run ∧ aligned ∧ s.regionMap.lookup m true a = .unmapped ∧
        f = .writeUnmapped bytes.length ∧ d = .writeUnmapped) ∨
      (∃ n c, s.control.bridge = .run ∧ aligned ∧ s.regionMap.lookup m true a = .denied n c ∧
        f = .writeDenied c n ∧ d = .writeDenied)) →
    let c := s.masters[m]
    let error : Deferred := match c.deferred with
      | none => ⟨d, 0⟩
      | some e => { e with further := min 255 (e.further + 1) }
    exec .headOffer s = .next (State.settle (State.popHead (State.raise (State.logFault { s with
      masters := s.masters.set m { c with deferred := some error } }
        ⟨0, f, some m, none, some a, none, none, none, none⟩) .writeDropped)))

/-- HEAD_OFFER of a WRITE to a line with an OPEN entry (R22, R24, R12): what the bytes do, position by position, and the checks
that follow. -/
def Obligations.WritesMergeIntoTheOpenEntry : Prop :=
  (∀ (s : State) (rest : List Request) (m : MasterIx) (t : Tag) (a : UpAddr) (bytes : List Byte) (A : Nat) (n : RegionIx)
    (attr : Attr) (e : EntryIx),
    s.upstream.intake = .write m t a bytes :: rest → s.upstream.busrst = false → s.control.bridge = .run →
    1 ≤ bytes.length → a.toNat % 32 + bytes.length ≤ 32 → s.regionMap.lookup m true a = .mapped A n attr →
    s.buffer.openEntry (A / 32) = some e →
    let x := s.buffer.entries[e]
    let y := { x with
      valid := x.valid ||| spanSet (A % 32) bytes.length
      data := placeBytes (A % 32) bytes x.data
      contributors := insertBit m x.contributors }
    let s1 : State := { s with buffer := { s.buffer with entries := s.buffer.entries.set e y } }
    exec .headOffer s = .next
      (if y.valid = BitVec.allOnes 32 ∨ attr = .direct then (s1.closeRequest e).popHead.settle else s1.popHead.settle)) ∧
  ∀ (d : LineBytes) (v : PosSet) (p : Nat) (bytes : List Byte) (q : Fin 32), p + bytes.length ≤ 32 →
    (placeBytes p bytes d)[q] = (if h : p ≤ q.val ∧ q.val < p + bytes.length then bytes[q.val - p]'(by omega) else d[q]) ∧
    ((v ||| spanSet p bytes.length).getLsbD q = true ↔ v.getLsbD q = true ∨ (p ≤ q.val ∧ q.val < p + bytes.length))

/-- HEAD_OFFER of a WRITE to a line without an OPEN entry (R21, R23, R20, R26, R27, R99): absorbed into the HELD entry,
allocated into the lowest-numbered FREE entry, with the checks of R24 and R25 following, or left waiting. That the allocated
entry's data are zero outside the write's span is the model's choice (log entry 10): no rule gives those bytes. So is it that
absorbing a write that waited raises no BUFFER-STUCK, also when all 16 entries are HELD for the first time (log entry 25). -/
def Obligations.WritesAllocateAbsorbOrWait : Prop :=
  ∀ (s : State) (rest : List Request) (m : MasterIx) (t : Tag) (a : UpAddr) (bytes : List Byte) (A : Nat) (n : RegionIx)
    (attr : Attr),
    s.upstream.intake = .write m t a bytes :: rest → s.upstream.busrst = false → s.control.bridge = .run →
    1 ≤ bytes.length → a.toNat % 32 + bytes.length ≤ 32 → s.regionMap.lookup m true a = .mapped A n attr →
    s.buffer.openEntry (A / 32) = none →
    (∀ e, s.buffer.heldEntry (A / 32) = some e →
      let x := s.buffer.entries[e]
      let y := { x with
        valid := x.valid ||| spanSet (A % 32) bytes.length
        data := placeBytes (A % 32) bytes x.data
        contributors := insertBit m x.contributors }
      exec .headOffer s = .next ((({ s with
        buffer := { s.buffer with entries := s.buffer.entries.set e y } }).recordError m .lineHeld).popHead).settle) ∧
    (∀ e : EntryIx, s.buffer.heldEntry (A / 32) = none → s.buffer.entries[e].state = .free →
      (∀ i : EntryIx, i < e → s.buffer.entries[i].state ≠ .free) →
      let y : Entry :=
        { state := .opened, line := some (A / 32), valid := spanSet (A % 32) bytes.length
          data := placeBytes (A % 32) bytes (Vector.replicate 32 0), contributors := BitVec.twoPow 8 m
          openedOrder := some s.buffer.counter, closePending := false
          ageTimer := if s.buffer.ageLimit = 0 then none else some s.buffer.ageLimit, heldReason := none }
      let s1 : State := { s with buffer := { s.buffer with
        entries := s.buffer.entries.set e y, openOrder := s.buffer.openOrder ++ [e], counter := s.buffer.counter + 1 } }
      let s2 := s1.wake (.entryChanged (A / 32))
      let s3 := if y.valid = BitVec.allOnes 32 ∨ attr = .direct then s2.closeRequest e else s2
      exec .headOffer s = .next ((if s3.buffer.freeCount ≤ s.buffer.closeAhead then s3.closeRequest? s3.buffer.oldestOpen
        else s3).popHead.settle)) ∧
    (s.buffer.heldEntry (A / 32) = none → (∀ e : EntryIx, s.buffer.entries[e].state ≠ .free) →
      ((∃ e : EntryIx, s.buffer.entries[e].state ≠ .held) → exec .headOffer s = .next
        (((s.closeRequest? s.buffer.oldestOpen).headWaits (.freeEntry s.upstream.headWait.stuck)).settle)) ∧
      ((∀ e : EntryIx, s.buffer.entries[e].state = .held) → exec .headOffer s = .next
        (((if s.upstream.headWait.stuck then s else s.raise .bufferStuck).headWaits (.freeEntry true)).settle)))

/-- HEAD_OFFER of a READ that passes the checks (R62-R65, R143): answered from the overlay, taken into the lowest FREE record,
or left waiting; the record joins the last operation of its line when that is a QUEUED fill with room, and otherwise queues a
fill. Last part: the bytes of a span, in ascending order. -/
def Obligations.ReadsAreAnsweredOrTaken : Prop :=
  (∀ (s : State) (rest : List Request) (m : MasterIx) (t : Tag) (a : UpAddr) (k : Nat) (A : Nat) (n : RegionIx)
    (attr : Attr),
    s.upstream.intake = .read m t a k :: rest → s.upstream.busrst = false → s.control.bridge = .run →
    s.masters[m].tags.getLsbD t = false → 1 ≤ k → a.toNat % 32 + k ≤ 32 → s.regionMap.lookup m false a = .mapped A n attr →
    let o := s.buffer.overlay (A / 32)
    let covers := spanSet (A % 32) k &&& ~~~o.1 = 0
    (covers → s.upstream.responses.length < 16 →
      exec .headOffer s = .next (State.settle (State.addTag { s with upstream := { s.upstream with
        intake := rest, headWait := .none, offerDue := !rest.isEmpty
        responses := s.upstream.responses ++ [.data m t .ok (spanBytes o.2 (A % 32) k)] } } m t))) ∧
    (∀ r : ReadIx, ¬covers → s.reads[r] = .free → (∀ i : ReadIx, i < r → s.reads[i] ≠ .free) →
      exec .headOffer s = .next ((((({ s with
        reads := s.reads.set r (.waitFill ⟨m, t, A / 32, A % 32, k, o.1, o.2⟩) }).attachFill r
          (A / 32)).addTag m t).popHead).settle)) ∧
    ((covers ∧ 16 ≤ s.upstream.responses.length) ∨ (¬covers ∧ ∀ r : ReadIx, s.reads[r] ≠ .free) →
      exec .headOffer s = .next (State.settle { s with upstream := { s.upstream with
        headWait := .read (A / 32), offerDue := false } }))) ∧
  (∀ (s : State) (r : ReadIx) (L : Nat) (before after : List Operation) (readers : List ReadIx) (q : BitVec 16),
    (s.opList.ops = before ++ ⟨.fill readers, L, q, .queued⟩ :: after → (∀ o ∈ after, o.line ≠ L) →
      readers.length < 8 →
      s.attachFill r L = { s with opList := { s.opList with
        ops := before ++ ⟨.fill (readers ++ [r]), L, q, .queued⟩ :: after } }) ∧
    ((∀ o ∈ s.opList.ops, o.line ≠ L) ∨ (∃ o, s.opList.ops = before ++ o :: after ∧ o.line = L ∧
        (∀ o ∈ after, o.line ≠ L) ∧ ∀ rs n, rs.length < 8 → o ≠ ⟨.fill rs, L, n, .queued⟩) →
      s.attachFill r L = { s with opList :=
        ⟨s.opList.ops ++ [⟨.fill [r], L, s.opList.counter, .queued⟩], s.opList.counter + 1⟩ })) ∧
  ∀ (d : LineBytes) (p n : Nat) (h : p + n ≤ 32),
    spanBytes d p n = (List.finRange n).map fun i => d[p + i.val]'(by omega)

/-- HEAD_OFFER of a bit operation that passes checks 1 to 5 (R78, R80, R140): refused with LINE-HELD, left waiting for its line
or a record, or admitted. Without a slot the refusal waits for one, and for a change of its line's entries (R79, R96, R102; log
entry 26). -/
def Obligations.BitOperationsAreAdmitted : Prop :=
  ∀ (s : State) (rest : List Request) (kind : BitKind) (m : MasterIx) (t : Tag) (a : UpAddr) (operand : List Byte) (A : Nat)
    (n : RegionIx) (attr : Attr),
    s.upstream.intake = .bitOp kind m t a operand :: rest → s.upstream.busrst = false → s.control.bridge = .run →
    s.masters[m].tags.getLsbD t = false → 1 ≤ operand.length → a.toNat % 8 + operand.length ≤ 8 →
    s.regionMap.lookup m true a = .mapped A n attr →
    let L := A / 32
    let free := s.buffer.hasEntry L = false
    (s.buffer.heldEntry L ≠ none →
      (s.upstream.responses.length < 16 → exec .headOffer s = .next (State.settle { s with upstream := { s.upstream with
        intake := rest, headWait := .none, offerDue := !rest.isEmpty
        responses := s.upstream.responses ++ [.refused m t .lineHeld] } })) ∧
      (16 ≤ s.upstream.responses.length → exec .headOffer s = .next (State.settle { s with upstream := { s.upstream with
        headWait := .slot (some L), offerDue := false } }))) ∧
    (s.buffer.heldEntry L = none → ¬free →
      exec .headOffer s = .next (((s.closeRequest? (s.buffer.openEntry L)).headWaits (.bitOp L)).settle)) ∧
    (free → (∀ r : BitIx, s.bitops[r] ≠ .free) → exec .headOffer s = .next (State.settle { s with
      upstream := { s.upstream with headWait := .bitOp L, offerDue := false } })) ∧
    (∀ r : BitIx, free → s.bitops[r] = .free → (∀ i : BitIx, i < r → s.bitops[i] ≠ .free) →
      exec .headOffer s = .next (State.settle (State.addTag { s with
        upstream := { s.upstream with intake := rest, headWait := .none, offerDue := !rest.isEmpty }
        bitops := s.bitops.set r
          (.queued ⟨m, t, kind, L, ⟨A % 32 / 8 % 4, Nat.mod_lt _ (by decide)⟩, A % 32, operand⟩)
        opList := ⟨s.opList.ops ++ [⟨.bitop r, L, s.opList.counter, .queued⟩], s.opList.counter + 1⟩ } m t)))

/-- HEAD_OFFER of a BARRIER in RUN (R91, R92, R90): refused with BUSY, answered at once, recorded with its wait set, or left
waiting for a slot, any freed slot bringing a fresh offer (`ArrivalsJoinTheIntake`; log entry 27 for BUSY); and the entries a
wait set names. -/
def Obligations.BarriersAreAnsweredOrRecorded : Prop :=
  (∀ (s : State) (rest : List Request) (m : MasterIx) (t : Tag),
    s.upstream.intake = .barrier m t :: rest → s.upstream.busrst = false → s.control.bridge = .run →
    s.masters[m].tags.getLsbD t = false →
    let w := s.buffer.waitSet m
    (s.masters[m].barrier.isSome = true → s.upstream.responses.length < 16 →
      exec .headOffer s = .next (State.settle { s with upstream := { s.upstream with
        intake := rest, headWait := .none, offerDue := !rest.isEmpty
        responses := s.upstream.responses ++ [.refused m t .busy] } })) ∧
    (s.masters[m].barrier = none → w = 0 → s.upstream.responses.length < 16 →
      exec .headOffer s = .next (State.settle { s with
        upstream := { s.upstream with
          intake := rest, headWait := .none, offerDue := !rest.isEmpty
          responses := s.upstream.responses ++ [.barrierDone m t s.masters[m].deferred] }
        masters := s.masters.set m { tags := insertBit t s.masters[m].tags, barrier := none, deferred := none } })) ∧
    (s.masters[m].barrier.isSome = true ∨ w = 0 → 16 ≤ s.upstream.responses.length →
      exec .headOffer s = .next (State.settle { s with upstream := { s.upstream with
        headWait := .barrier, offerDue := false } })) ∧
    (s.masters[m].barrier = none → w ≠ 0 →
      exec .headOffer s = .next (((({ s with
        masters := s.masters.set m { s.masters[m] with barrier := some ⟨t, w⟩ } }).closeAll
          (s.buffer.openOrder.filter fun e => w.getLsbD e)).addTag m t).popHead).settle)) ∧
  ∀ (b : CombineBuffer) (m : MasterIx) (e : EntryIx),
    (b.waitSet m).getLsbD e = true ↔
      (b.entries[e].state = .opened ∨ b.entries[e].state = .committed ∨ b.entries[e].state = .draining) ∧
        b.entries[e].contributors.getLsbD m = true

/-- RESPONSE_DELIVERY (R146, R143, R148). -/
def Obligations.DeliveryReleasesTheTag : Prop :=
  ∀ (s : State) (r : Response) (rs : List Response), s.upstream.responses = r :: rs →
    (s.upstream.busrst = false →
      let s1 := State.wake { s with upstream := { s.upstream with responses := rs } } .slotFreed
      exec .responseDelivery s = .next (State.settle (match r with
        | .data m t _ _ | .oldData m t _ _ | .barrierDone m t _ =>
            { s1 with masters := s1.masters.set m { s1.masters[m] with tags := removeBit t s1.masters[m].tags } }
        | .refused _ _ _ => s1))) ∧
    (s.upstream.busrst = true → exec .responseDelivery s = .next s.settle)

/-- READ_RESPONSE_PLACED, BITOP_RESPONSE_PLACED and BARRIER_RESPONSE_PLACED, in the order of R145 (R70, R84, R94). -/
def Obligations.ReadyResponsesTakeSlotsInOrder : Prop :=
  ∀ s : State, s.upstream.responses.length < 16 →
    let noRead (i : ReadIx) : Prop := ∀ r st d, s.reads[i] ≠ ReadRec.ready r st d
    let noBit (i : BitIx) : Prop := ∀ b st d, s.bitops[i] ≠ BitRec.ready b st d
    (∀ (i : ReadIx) (r : ReadReq) (st : RecordStatus) (d : List Byte), s.reads[i] = .ready r st d → (∀ j, j < i → noRead j) →
      exec .readResponsePlaced s = .next ((State.wake { s with
        upstream := { s.upstream with responses := s.upstream.responses ++ [.data r.master r.tag st d] }
        reads := s.reads.set i .free } .readFreed).settle)) ∧
    (∀ (i : BitIx) (b : BitReq) (st : RecordStatus) (d : List Byte), (∀ j, noRead j) → s.bitops[i] = .ready b st d →
      (∀ j, j < i → noBit j) →
      exec .bitopResponsePlaced s = .next ((State.wake { s with
        upstream := { s.upstream with responses := s.upstream.responses ++ [.oldData b.master b.tag st d] }
        bitops := s.bitops.set i .free } .bitFreed).settle)) ∧
    (∀ (m : MasterIx) (t : Tag), (∀ j, noRead j) → (∀ j, noBit j) → s.masters[m].barrier = some ⟨t, 0⟩ →
      (∀ j : MasterIx, j < m → ∀ t', s.masters[j].barrier ≠ some ⟨t', 0⟩) →
      s.control.bridge ≠ .halted → s.control.bridge ≠ .restarting →
      exec .barrierResponsePlaced s = .next (State.settle { s with
        upstream := { s.upstream with responses := s.upstream.responses ++ [.barrierDone m t s.masters[m].deferred] }
        masters := s.masters.set m { s.masters[m] with barrier := none, deferred := none } }))

/-! ## The combine buffer -/

/-- A close request (R29) and a commit (R30); AGE_EXPIRY and CLOSE_PENDING_COMMIT (R28, R35; log entry 11). -/
def Obligations.CloseRequestCommitsOrMarks : Prop :=
  ∀ (s : State) (e : EntryIx) (L : Nat),
    let x := s.buffer.entries[e]
    let committed := State.wake { s with
      buffer := { s.buffer with
        entries := s.buffer.entries.set e { x with state := .committed, ageTimer := none, closePending := false }
        openOrder := s.buffer.openOrder.filter (· != e) }
      opList := ⟨s.opList.ops ++
        [⟨.drain (if x.valid = BitVec.allOnes 32 then .fullWrite else .mergeWrite) e, L, s.opList.counter, .queued⟩],
        s.opList.counter + 1⟩ } (.entryChanged L)
    (¬(x.state = .opened ∧ x.closePending = false) → s.closeRequest e = s) ∧
    (x.line = some L →
    (x.state = .opened → x.closePending = false → s.buffer.predecessor L ≠ none →
      s.closeRequest e = { s with buffer := { s.buffer with
        entries := s.buffer.entries.set e { x with closePending := true } } }) ∧
    (x.state = .opened → x.closePending = false → s.buffer.predecessor L = none → s.closeRequest e = committed) ∧
    (x.state = .opened → x.ageTimer.isSome = true → exec (.ageExpiry e) s = .next (State.settle (State.closeRequest { s with
      buffer := { s.buffer with entries := s.buffer.entries.set e { x with ageTimer := some 0 } } } e))) ∧
    (x.state = .opened → x.closePending = true → s.buffer.predecessor L = none →
      exec (.closePendingCommit e) s = .next committed.settle))

/-- The overlay of a line, position by position (R38). -/
def Obligations.OverlayTakesTheNewerByte : Prop :=
  ∀ (b : CombineBuffer) (L : Nat) (q : Fin 32),
    let o := b.overlay L
    (∀ e, b.openEntry L = some e → b.entries[e].valid.getLsbD q = true →
      o.1.getLsbD q = true ∧ o.2[q] = b.entries[e].data[q]) ∧
    (∀ p, b.predecessor L = some p → b.entries[p].valid.getLsbD q = true →
      (∀ e, b.openEntry L = some e → b.entries[e].valid.getLsbD q = false) →
      o.1.getLsbD q = true ∧ o.2[q] = b.entries[p].data[q]) ∧
    ((∀ e, b.openEntry L = some e → b.entries[e].valid.getLsbD q = false) →
      (∀ p, b.predecessor L = some p → b.entries[p].valid.getLsbD q = false) → o.1.getLsbD q = false)

/-- What a failed drain does (R96, R97, R98): its entry is HELD with the successor's bytes over its own, LINE-HELD is recorded
once against every contributor of the two, both entries leave the wait sets, the successor is FREE, and LINE-HELD is logged and
raised. Second part: the line's overlay set is unchanged and its bytes are the same (R39). -/
def Obligations.FoldingKeepsTheOverlay : Prop :=
  (∀ (s : State) (e : EntryIx) (L : Nat) (r : HeldReason) (op : OpKind × BitVec 16) (w : Option WordIx),
    s.buffer.entries[e].state = .draining → s.buffer.entries[e].line = some L →
    let x := s.buffer.entries[e]
    let held : Entry := { x with state := .held, heldReason := some r, closePending := false, ageTimer := none }
    let errors (hit : MasterSet) (gone : EntrySet) : Vector MasterCtx 8 := Vector.ofFn fun m =>
      let c := s.masters[m]
      { c with
        deferred := if hit.getLsbD m then (match c.deferred with
          | none => some ⟨.lineHeld, 0⟩
          | some d => some { d with further := min 255 (d.further + 1) }) else c.deferred
        barrier := c.barrier.map fun (b : Barrier) => { b with waitSet := b.waitSet &&& ~~~gone } }
    let reported (t : State) : State := State.raise (State.logFault (t.wake (.entryChanged L))
      ⟨0, .lineHeld r e, none, none, none, some L, w, none, some op⟩) .lineHeld
    (s.buffer.openEntry L = none → s.drainFails e r op w = reported { s with
      buffer := { s.buffer with entries := s.buffer.entries.set e held }
      masters := errors x.contributors (BitVec.twoPow 16 e) }) ∧
    (∀ f, s.buffer.openEntry L = some f →
      let y := s.buffer.entries[f]
      s.drainFails e r op w = reported { s with
        buffer := { s.buffer with
          entries := (s.buffer.entries.set e { held with
            data := Vector.ofFn fun p => if y.valid.getLsbD p then y.data[p] else x.data[p]
            valid := x.valid ||| y.valid, contributors := x.contributors ||| y.contributors }).set f Entry.free
          openOrder := s.buffer.openOrder.filter (· != f) }
        masters := errors (x.contributors ||| y.contributors) (BitVec.twoPow 16 e ||| BitVec.twoPow 16 f) })) ∧
  ∀ (s : State) (e : EntryIx) (L : Nat) (r : HeldReason) (op : OpKind × BitVec 16) (w : Option WordIx) (q : Fin 32),
    s.buffer.lineLaw → s.buffer.entries[e].state = .draining → s.buffer.entries[e].line = some L →
    let t := s.drainFails e r op w
    t.buffer.entries[e].state = .held ∧ t.buffer.entries[e].heldReason = some r ∧ t.buffer.openEntry L = none ∧
      (t.buffer.overlay L).1 = (s.buffer.overlay L).1 ∧
      ((s.buffer.overlay L).1.getLsbD q = true → (t.buffer.overlay L).2[q] = (s.buffer.overlay L).2[q])

/-! ## Lanes and the array port -/

/-- LANE_DISPATCH (R51, R53, R34, R81). -/
def Obligations.DispatchPutsTheOperationInFlight : Prop :=
  ∀ (s : State) (k : LaneIx) (i : Nat) (o : Operation), s.dispatchChoice = some (k, i) → s.opList.ops[i]? = some o →
    let taken (cmd : ArrayCmd) (st : LaneStep) : State := { s with
      opList := { s.opList with ops := s.opList.ops.set i { o with phase := .inFlight k } }
      lanes := s.lanes.set k (.busy st)
      port := { s.port with queue := s.port.queue ++ [⟨k, cmd, o.line⟩] } }
    let draining (t : State) (e : EntryIx) (L : Nat) : State := State.wake { t with
      buffer := { s.buffer with entries := s.buffer.entries.set e { s.buffer.entries[e] with state := .draining } } }
        (.entryChanged L)
    (∀ (d : DrainKind) (e : EntryIx) (L : Nat), o.work = .drain d e → s.buffer.entries[e].state = .committed → s.buffer.entries[e].line = some L →
      exec .laneDispatch s = .next (State.settle (draining (if d = .fullWrite then
        taken (.lineWrite (lineWords s.buffer.entries[e].data)) .writeWait else taken .lineRead .readWait) e L))) ∧
    (∀ (r : BitIx) (b : BitReq), o.work = .bitop r → s.bitops[r] = .queued b → exec .laneDispatch s = .next (State.settle
      { taken .lineRead .readWait with bitops := s.bitops.set r (.inFlight b []) })) ∧
    ((∃ readers, o.work = .fill readers) ∨ o.work = .scrub → exec .laneDispatch s =
      .next (State.settle (taken .lineRead .readWait)))

/-- The arbiter's choice (R46, R49, R50): the lane is the lowest IDLE one, the operation is eligible, none of a class before
its own is eligible, and no eligible operation of its class is older. Second part: a dispatch is due whenever a lane is IDLE
and an operation eligible in RUN or QUIESCING. -/
def Obligations.ArbiterTakesTheOldestOfTheHighestClass : Prop :=
  ∀ s : State,
    let free := ((List.finRange 16).filter fun (e : EntryIx) => decide (s.buffer.entries[e].state = .free)).length
    let short := free ≤ s.buffer.closeAhead
    let rank (o : Operation) : Nat := match o.work with
      | .drain _ _ => if short then 0 else 1
      | .fill _ | .bitop _ => if short then 1 else 0
      | .scrub => 2
    let eligible (i : Nat) (o : Operation) : Prop := s.opList.ops[i]? = some o ∧ o.phase = .queued ∧
      ∀ (j : Nat) (p : Operation), j < i → s.opList.ops[j]? = some p → p.line ≠ o.line
    (∀ (k : LaneIx) (i : Nat), s.dispatchChoice = some (k, i) →
      (s.control.bridge = .run ∨ s.control.bridge = .quiescing) ∧
      s.lanes[k] = .idle ∧ (∀ j : LaneIx, j < k → s.lanes[j] ≠ .idle) ∧
      ∃ o, eligible i o ∧ ∀ (j : Nat) (p : Operation), eligible j p →
        rank o < rank p ∨ (rank o = rank p ∧ i ≤ j)) ∧
    ∀ (k : LaneIx) (i : Nat) (o : Operation), s.control.bridge = .run ∨ s.control.bridge = .quiescing →
      s.lanes[k] = .idle → eligible i o → ∃ c, s.dispatchChoice = some c

/-- COMMAND_ISSUE (R108, R107, R118). -/
def Obligations.IssueStartsTheTimer : Prop :=
  ∀ (s : State) (c : QueuedCmd) (rest : List QueuedCmd), s.port.condition = .idle → s.port.queue = c :: rest →
    s.control.bridge = .run ∨ s.control.bridge = .quiescing ∨ s.control.bridge = .halted →
    let shown : Presented := match c.cmd with
      | .lineRead => .lineRead
      | .lineWrite ws => .lineWrite (ws.map encodeWord)
    let retries := if s.control.bridge = .halted then 0 else s.port.retryLimit
    exec .commandIssue s = .next (State.settle { s with port := { s.port with
      queue := rest, abortLine := false
      condition := .issued ⟨c.lane, shown, c.line, 1, retries⟩ s.port.responseTimeout } })

/-- ARRAY_DONE of a drain's LINE-WRITE: the operation goes, the entry is FREE, its successor commits when close-pending and
stays OPEN otherwise, the lane is IDLE, and the failure count is 0 (R109, R58, R35, R30). -/
def Obligations.DoneFreesTheDrainedEntry : Prop :=
  ∀ (s : State) (words : Vector CodedWord 4) (c : InProgress) (w : Vector CodedWord 4) (tm : Nat) (o : Operation)
    (d : DrainKind) (e : EntryIx) (L : Nat),
    s.port.condition = .issued c tm → c.cmd = .lineWrite w → s.laneOp c.lane = some o → o.work = .drain d e →
    s.buffer.entries[e].state = .draining → s.buffer.entries[e].line = some L →
    let freed : State := State.wake (State.wake { s with
      port := { s.port with condition := .idle, abortLine := false, failures := 0 }
      opList := { s.opList with ops := s.opList.ops.filter fun p => p.phase != Phase.inFlight c.lane }
      lanes := s.lanes.set c.lane .idle
      buffer := { s.buffer with
        entries := s.buffer.entries.set e Entry.free, openOrder := s.buffer.openOrder.filter (· != e) }
      masters := s.masters.map fun (m : MasterCtx) => { m with
        barrier := m.barrier.map fun (b : Barrier) => { b with waitSet := removeBit e b.waitSet } } }
          (.entryChanged L)) (.overlayLost L)
    (∀ f, s.buffer.openEntry L = some f → s.buffer.entries[f].closePending = true →
      let y := s.buffer.entries[f]
      exec (.arrayDone words) s = .next (State.settle { freed with
        buffer := { freed.buffer with
          entries := freed.buffer.entries.set f { y with state := .committed, ageTimer := none, closePending := false }
          openOrder := freed.buffer.openOrder.filter (· != f) }
        opList := ⟨freed.opList.ops ++ [⟨.drain (if y.valid = BitVec.allOnes 32 then .fullWrite else .mergeWrite) f, L,
          s.opList.counter, .queued⟩], s.opList.counter + 1⟩ })) ∧
    ((∀ f, s.buffer.openEntry L = some f → s.buffer.entries[f].closePending = false) →
      exec (.arrayDone words) s = .next freed.settle)

/-- ARRAY_DONE of a LINE-READ: the words are classified and their consequences taken in word order, and the lane goes on with
them (R109, R119). A CLEAN word has none; a CORRECTED one raises the count, which stays at 65535, and CORRECTED, and is logged
when LOG-CORRECTED is on (R120, R121); an UNCORRECTABLE one raises UNCORRECTABLE (R122). -/
def Obligations.DoneClassifiesTheWords : Prop :=
  ∀ (s : State) (words : Vector CodedWord 4) (c : InProgress) (tm : Nat),
    s.port.condition = .issued c tm → c.cmd = .lineRead →
    let op := (s.laneOp c.lane).map fun o => (o.work.kind, o.queuedOrder)
    let ws := words.map classify
    let raised (t : State) (source : Nat) : State := { t with
      events := EventUnit.recompute { t.events with pending := t.events.pending ||| BitVec.twoPow 12 (source - 1) } }
    let note (t : State) (w : WordIx) : State := match ws[w].cls with
      | .clean => t
      | .uncorrectable => raised t 2
      | .corrected q =>
        let counted := raised { t with
          port := { t.port with correctedCount := min 65535 (t.port.correctedCount + 1) } } 10
        if t.port.logCorrected then
          counted.logFault ⟨0, .corrected (decide (64 ≤ q)), none, none, none, some c.line, some w, some q, op⟩
        else counted
    let s1 : State := { s with port := { s.port with condition := .idle, abortLine := false, failures := 0 } }
    exec (.arrayDone words) s = .next (State.settle ((note (note (note (note s1 0) 1) 2) 3).laneRead c.lane ws))

/-- What a lane does with a read line (R54-R56, R59, R127-R129): the drains and the scrub; the end of a scrub's LINE-WRITE
(R128); and which bytes the words of a line hold (R1, R2, R53). -/
def Obligations.LanesActOnTheWordsRead : Prop :=
  (∀ (s : State) (k : LaneIx) (o : Operation) (ws : Vector ReadWord 4), s.laneOp k = some o →
    let bad (w : WordIx) : Prop := ws[w].cls = .uncorrectable
    let go := s.control.bridge ≠ .restarting
    let log (f : FaultKind) (w : WordIx) : FaultRecord :=
      ⟨0, f, none, none, none, some o.line, some w, none, some (o.work.kind, o.queuedOrder)⟩
    let writing (t : State) (bytes : LineBytes) : State := { t with
      lanes := s.lanes.set k (.busy .writeWait)
      port := { s.port with queue := s.port.queue ++ [⟨k, .lineWrite (lineWords bytes), o.line⟩] } }
    let stopped : State := { s with lanes := s.lanes.set k (.busy .stopped) }
    let removed (t : State) : State := { t with
      opList := { s.opList with ops := s.opList.ops.filter fun p => p.phase != Phase.inFlight k } }
    let idle (t : State) : State := { t with lanes := s.lanes.set k .idle }
    (∀ (d : DrainKind) (e : EntryIx), o.work = .drain d e → d = .mergeWrite ∨ d = .forceWrite →
      let x := s.buffer.entries[e]
      let merged : LineBytes :=
        Vector.ofFn fun p => if x.valid.getLsbD p then x.data[p] else byteAt ws p
      let covered (w : WordIx) : Prop := ∀ p : Fin 32, p.val / 8 = w.val → x.valid.getLsbD p = true
      (go → (∀ w, ¬bad w) → s.laneRead k ws = writing s merged) ∧
      (∀ w, go → bad w → (∀ v, bad v → covered v ∧ w ≤ v) →
        s.laneRead k ws = writing (s.logFault (log (.mergeUncorrectable .overwritten) w)) merged) ∧
      (¬go → (∀ v, bad v → covered v) ∨ d = .forceWrite → s.laneRead k ws = stopped) ∧
      (∀ w, bad w → ¬covered w → (∀ v, bad v → ¬covered v → w ≤ v) →
        (d = .mergeWrite → s.laneRead k ws = idle (State.drainFails
          (removed (s.logFault (log (.mergeUncorrectable .notCovered) w))) e .uncorrectable (.drain .mergeWrite, o.queuedOrder)
            (some w))) ∧
        (d = .forceWrite → go →
          s.laneRead k ws = writing (s.logFault (log (.mergeUncorrectable .forced) w)) merged))) ∧
    (o.work = .scrub →
      ((∀ w : WordIx, ws[w].cls = .clean) → s.laneRead k ws = idle (removed s)) ∧
      (∀ (w : WordIx) (q : Nat), (∀ v, ¬bad v) → ws[w].cls = .corrected q →
        (go → s.laneRead k ws = writing s (Vector.ofFn fun p => byteAt ws p)) ∧ (¬go → s.laneRead k ws = stopped)) ∧
      (∀ w, bad w → (∀ v, bad v → w ≤ v) →
        let bads := ((List.finRange 4).filter fun (v : WordIx) => decide (ws[v].cls = .uncorrectable)).length
        let fixed := ((List.finRange 4).filter fun (v : WordIx) => match ws[v].cls with
          | .corrected _ => true
          | _ => false).length
        s.laneRead k ws = idle (removed (s.logFault (log (.scrubUncorrectable bads fixed) w)))))) ∧
  (∀ (s : State) (words : Vector CodedWord 4) (c : InProgress) (w : Vector CodedWord 4) (tm : Nat) (o : Operation),
    s.port.condition = .issued c tm → c.cmd = .lineWrite w → s.laneOp c.lane = some o → o.work = .scrub →
    exec (.arrayDone words) s = .next (State.settle { s with
      port := { s.port with condition := .idle, abortLine := false, failures := 0 }
      opList := { s.opList with ops := s.opList.ops.filter fun p => p.phase != Phase.inFlight c.lane }
      lanes := s.lanes.set c.lane .idle })) ∧
  ∀ (d : LineBytes) (ws : Vector ReadWord 4) (w : WordIx) (j : Fin 8),
    (lineWords d)[w].extractLsb' (8 * j.val) 8 = d[8 * w.val + j.val]'(by omega) ∧
    byteAt ws (8 * w.val + j.val) = ws[w].data.extractLsb' (8 * j.val) 8

/-- What a lane does with the line a bit operation read (R81, R82, R59, R86), for an ORPHANED record too (R85), the completion
of a BITOP (R83, R85), and the new bytes (R76). -/
def Obligations.BitOperationsChangeTheSpanOnly : Prop :=
  (∀ (s : State) (k : LaneIx) (o : Operation) (i : BitIx) (b : BitReq) (old : List Byte),
    s.laneOp k = some o → o.work = .bitop i → s.bitops[i] = BitRec.inFlight b old ∨ s.bitops[i] = BitRec.orphaned b →
    let orphan := s.bitops[i] = BitRec.orphaned b
    let completed (t : State) (st : RecordStatus) (data : List Byte) : State :=
      let u : State := { t with
        opList := { s.opList with ops := s.opList.ops.filter fun p => p.phase != Phase.inFlight k }
        lanes := s.lanes.set k .idle
        bitops := s.bitops.set i (if orphan then .free else .ready b st data) }
      if orphan then u.wake .bitFreed else u
    (∀ ws : Vector ReadWord 4,
      let bytes : LineBytes := Vector.ofFn fun p => byteAt ws p
      let log (d : BitopDetail) (w : WordIx) : FaultRecord :=
        ⟨0, .bitopUncorrectable d, some b.master, some b.tag, none, some o.line, some w, none,
          some (.bitop, o.queuedOrder)⟩
      let kept : Vector BitRec 4 := if orphan then s.bitops
        else s.bitops.set i (.inFlight b (spanBytes bytes b.first b.operand.length))
      let writing (t : State) : State := { t with
        bitops := kept
        lanes := s.lanes.set k (.busy .writeWait)
        port := { s.port with queue := s.port.queue ++ [⟨k, .lineWrite (lineWords (b.newBytes bytes)), o.line⟩] } }
      (ws[b.word].cls = .uncorrectable → s.laneRead k ws =
        completed (s.logFault (log .targetWord b.word)) .dataError (List.replicate b.operand.length 0)) ∧
      (s.control.bridge ≠ .restarting → (∀ w : WordIx, ws[w].cls ≠ .uncorrectable) → s.laneRead k ws = writing s) ∧
      (∀ w : WordIx, s.control.bridge ≠ .restarting → ws[b.word].cls ≠ .uncorrectable → ws[w].cls = .uncorrectable →
        (∀ v : WordIx, v < w → ws[v].cls ≠ .uncorrectable) → s.laneRead k ws = writing (s.logFault (log .otherWord w))) ∧
      (s.control.bridge = .restarting → ws[b.word].cls ≠ .uncorrectable → s.laneRead k ws = { s with
        bitops := kept, lanes := s.lanes.set k (.busy .stopped) })) ∧
    (∀ (words : Vector CodedWord 4) (c : InProgress) (w : Vector CodedWord 4) (tm : Nat),
      s.port.condition = .issued c tm → c.cmd = .lineWrite w → c.lane = k →
      exec (.arrayDone words) s = .next (State.settle (completed { s with
        port := { s.port with condition := .idle, abortLine := false, failures := 0 } } .ok old)))) ∧
  ∀ (b : BitReq) (old : LineBytes) (p : Fin 32) (j : Nat), j < 8 →
    let i := p.val - b.first
    ((b.first ≤ p.val ∧ p.val < b.first + b.operand.length) →
      ((b.newBytes old)[p]).getLsbD j = (match b.kind with
        | .setBits => old[p].getLsbD j || (b.operand.getD i 0).getLsbD j
        | .clearBits => old[p].getLsbD j && !(b.operand.getD i 0).getLsbD j
        | .flipBits => old[p].getLsbD j != (b.operand.getD i 0).getLsbD j)) ∧
    (¬(b.first ≤ p.val ∧ p.val < b.first + b.operand.length) → (b.newBytes old)[p] = old[p])

/-- The answer of a fill's reader (R67), and the completion of a fill by DONE: the readers' records, an ORPHANED one FREE
(R67, R71), and the READ-UNCORRECTABLE fault (R68). -/
def Obligations.ReadersTakeOverlayThenArray : Prop :=
  (∀ (r : ReadReq) (ws : Vector ReadWord 4), r.first + r.count ≤ 32 →
    ((∃ q : Fin 32, r.first ≤ q.val ∧ q.val < r.first + r.count ∧ r.overlaySet.getLsbD q = false ∧
        ws[wordOfPos q.val].cls = .uncorrectable) → r.answer ws = (.dataError, List.replicate r.count 0)) ∧
    ((∀ q : Fin 32, r.first ≤ q.val → q.val < r.first + r.count → r.overlaySet.getLsbD q = false →
        ws[wordOfPos q.val].cls ≠ .uncorrectable) →
      (r.answer ws).1 = .ok ∧ (r.answer ws).2.length = r.count ∧
      ∀ q : Fin 32, r.first ≤ q.val → q.val < r.first + r.count →
        (r.answer ws).2[q.val - r.first]? =
          some (if r.overlaySet.getLsbD q then r.overlayData[q] else byteAt ws q.val))) ∧
  ∀ (s : State) (k : LaneIx) (o : Operation) (readers : List ReadIx) (ws : Vector ReadWord 4), s.laneOp k = some o →
    o.work = .fill readers →
    let failed : List ReadReq := readers.filterMap fun (i : ReadIx) => match s.reads[i] with
      | .waitFill r => if (r.answer ws).1 = .dataError then some r else none
      | _ => none
    let ended : State := { s with
      opList := { s.opList with ops := s.opList.ops.filter fun p => p.phase != Phase.inFlight k }
      lanes := s.lanes.set k .idle
      reads := Vector.ofFn fun i => if i ∈ readers then (match s.reads[i] with
        | .waitFill r => .ready r (r.answer ws).1 (r.answer ws).2
        | .orphaned _ => .free
        | x => x) else s.reads[i] }
    let woken := if readers.any fun (i : ReadIx) => match s.reads[i] with
      | .orphaned _ => true
      | _ => false then ended.wake .readFreed else ended
    let needed (w : WordIx) : Prop := ws[w].cls = .uncorrectable ∧ ∃ r ∈ failed, ∃ q : Fin 32,
      r.first ≤ q.val ∧ q.val < r.first + r.count ∧ r.overlaySet.getLsbD q = false ∧ wordOfPos q.val = w
    (failed = [] → s.laneRead k ws = woken) ∧
    ∀ (r : ReadReq) (rs : List ReadReq) (w : WordIx), failed = r :: rs → needed w → (∀ v, v < w → ¬needed v) →
      s.laneRead k ws = woken.logFault ⟨0, .readUncorrectable failed.length, some r.master, some r.tag, none, some o.line,
        some w, none, some (.fillRead, o.queuedOrder)⟩

/-- ARRAY_FAULT, COMPLETION_TIMEOUT without a reissue, and ABORT_INTERVAL_END with a cancelled one: the steps of a final failure
(R110-R112), and what the failure does to the lane's operation and to what it works for (R57, R58, R69, R71, R84, R85, R130). -/
def Obligations.FinalFailuresTakeTheirSteps : Prop :=
  (∀ (s : State) (c : InProgress) (tm : Nat),
    let op := (s.laneOp c.lane).map fun o => (o.work.kind, o.queuedOrder)
    let kind : CmdKind := match c.cmd with
      | .lineRead => .lineRead
      | .lineWrite _ => .lineWrite
    let ended (next : PortCondition) (abort : Bool) (f : FaultKind) (r : FailReason) : State :=
      State.settle ((State.countFailure (State.raise (State.logFault
        { s with port := { s.port with condition := next, abortLine := abort } }
        ⟨0, f, none, none, none, some c.line, none, none, op⟩) .memFailure)).laneFailed c.lane r)
    (s.port.condition = .issued c tm →
      exec .arrayFault s = .next (ended .idle false (.memFault kind c.issueCount) .memFault)) ∧
    (s.port.condition = .issued c tm → (c.retries = 0 ∨ (s.control.bridge ≠ .run ∧ s.control.bridge ≠ .quiescing)) →
      exec .completionTimeout s = .next (ended (.aborting none 1) true (.memTimeout kind c.issueCount) .timeout)) ∧
    (s.port.condition = .aborting (some c) tm → s.control.bridge ≠ .run → s.control.bridge ≠ .quiescing →
      exec .abortIntervalEnd s = .next (ended .idle false (.memTimeout kind c.issueCount) .timeout))) ∧
  ∀ (s : State) (k : LaneIx) (o : Operation) (r : FailReason), s.laneOp k = some o →
    let status : RecordStatus := match r with
      | .timeout => .memTimeout
      | .memFault => .memFault
    let reason : HeldReason := match r with
      | .timeout => .timeout
      | .memFault => .memFault
    let removed : State := { s with
      opList := { s.opList with ops := s.opList.ops.filter fun p => p.phase != Phase.inFlight k } }
    let ended : State := { removed with lanes := s.lanes.set k .idle }
    (∀ d e, o.work = .drain d e → s.laneFailed k r =
      { removed.drainFails e reason (.drain d, o.queuedOrder) none with lanes := s.lanes.set k .idle }) ∧
    (∀ readers, o.work = .fill readers →
      let answered : State := { ended with reads := Vector.ofFn fun i => if i ∈ readers then (match s.reads[i] with
        | .waitFill q => .ready q status []
        | .orphaned _ => .free
        | x => x) else s.reads[i] }
      s.laneFailed k r = if readers.any fun (i : ReadIx) => match s.reads[i] with
        | .orphaned _ => true
        | _ => false then answered.wake .readFreed else answered) ∧
    (∀ i b old, o.work = .bitop i → s.bitops[i] = BitRec.inFlight b old →
      s.laneFailed k r = { ended with bitops := s.bitops.set i (.ready b status []) }) ∧
    (∀ i b, o.work = .bitop i → s.bitops[i] = BitRec.orphaned b →
      s.laneFailed k r = State.wake { ended with bitops := s.bitops.set i .free } .bitFreed) ∧
    (o.work = .scrub → s.laneFailed k r = ended)

/-- The consecutive failure count and the halt threshold (R113), and the steps of entry into HALTED up to the offer of the head
(R158, R72, R86). -/
def Obligations.HaltsTakeTheirSteps : Prop :=
  ∀ (s : State) (c : HaltCause),
    let n := min 15 (s.port.failures + 1)
    let s1 : State := { s with port := { s.port with failures := n } }
    let s2 := State.raise (State.logFault { s with control := ⟨.halted, some c⟩ }
      ⟨0, .halt c s.control.bridge (if c = .command then 0 else s.port.failures), none, none, none, none, none, none, none⟩)
      .halt
    ((n < s.port.haltThreshold ∨ (s.control.bridge ≠ .run ∧ s.control.bridge ≠ .quiescing)) → s.countFailure = s1) ∧
    (s.port.haltThreshold ≤ n → s.control.bridge = .run ∨ s.control.bridge = .quiescing →
      s.countFailure = (s1.halt .threshold).serveUpstream 256) ∧
    s.halt c = { s2 with
      reads := Vector.ofFn fun i => match s.reads[i] with
        | .waitFill r => if s.opList.ops.any (fun o => match o.work, o.phase with
            | .fill readers, .queued => decide (i ∈ readers)
            | _, _ => false) then .ready r .halted [] else .waitFill r
        | x => x
      bitops := Vector.ofFn fun i => match s.bitops[i] with
        | .queued b => .ready b .halted []
        | x => x
      opList := { s.opList with ops := s.opList.ops.filter fun o => match o.work, o.phase with
        | .fill _, .queued | .bitop _, .queued => false
        | _, _ => true }
      scrub := { s.scrub with timer := none }
      upstream := { s.upstream with offerDue := !s.upstream.intake.isEmpty } }

/-- COMPLETION_TIMEOUT with retries left, ABORT_INTERVAL_END, and DISREGARDED_COMPLETION while no command is ISSUED (R111). -/
def Obligations.TimeoutsAbortAndReissue : Prop :=
  ∀ (s : State) (c : InProgress) (tm : Nat) (late : Completion),
    (s.port.condition = .issued c tm → 0 < c.retries → s.control.bridge = .run ∨ s.control.bridge = .quiescing →
      exec .completionTimeout s = .next (State.settle { s with port := { s.port with
        condition := .aborting (some { c with retries := c.retries - 1 }) 1, abortLine := true } })) ∧
    (s.port.condition = .aborting (some c) tm → s.control.bridge = .run ∨ s.control.bridge = .quiescing →
      exec .abortIntervalEnd s = .next (State.settle { s with port := { s.port with
        condition := .issued { c with issueCount := c.issueCount + 1 } s.port.responseTimeout, abortLine := false } })) ∧
    (s.port.condition = .aborting none tm →
      exec .abortIntervalEnd s = .next (State.settle { s with port := { s.port with
        condition := .idle, abortLine := false } })) ∧
    ((∀ p t, s.port.condition ≠ .issued p t) → exec (.disregardedCompletion late) s = .next s)

/-- The check code: a word as written reads CLEAN, one changed bit is corrected, two are not (R118, R119). -/
def Obligations.CheckCodeCorrectsOneBit : Prop :=
  ∀ (d : DataWord) (i j : Nat), i < 72 → j < 72 → i ≠ j →
    classify (encodeWord d) = ⟨d, .clean⟩ ∧
    classify (encodeWord d ^^^ BitVec.twoPow 72 i) = ⟨d, .corrected i⟩ ∧
    (classify (encodeWord d ^^^ BitVec.twoPow 72 i ^^^ BitVec.twoPow 72 j)).cls = .uncorrectable

/-- An event that the bridge's state leaves no room for changes nothing (log entry 16). -/
def Obligations.EventsOutOfPlaceChangeNothing : Prop :=
  ∀ (s : State) (e : EntryIx) (words : Vector CodedWord 4),
    (s.examinable = false ∨ s.upstream.intake = [] → exec .headOffer s = .next s) ∧
    (s.buffer.entries[e].state ≠ .opened ∨ s.buffer.entries[e].ageTimer = none → exec (.ageExpiry e) s = .next s) ∧
    (s.buffer.entries[e].state ≠ .opened ∨ s.buffer.entries[e].closePending = false →
      exec (.closePendingCommit e) s = .next s) ∧
    (16 ≤ s.upstream.responses.length → exec .readResponsePlaced s = .next s ∧ exec .bitopResponsePlaced s = .next s ∧
      exec .barrierResponsePlaced s = .next s) ∧
    (s.dispatchChoice = none → exec .laneDispatch s = .next s) ∧
    (s.port.condition ≠ .idle ∨ s.port.queue = [] → exec .commandIssue s = .next s) ∧
    ((∀ c t, s.port.condition ≠ .issued c t) → exec (.arrayDone words) s = .next s ∧ exec .arrayFault s = .next s ∧
      exec .completionTimeout s = .next s) ∧
    ((∀ c t, s.port.condition ≠ .aborting c t) → exec .abortIntervalEnd s = .next s) ∧
    (s.scrub.timer = none → exec .scrubIntervalExpiry s = .next s) ∧
    (s.control.bridge ≠ .quiescing → exec .quiesceComplete s = .next s) ∧
    (s.control.bridge ≠ .restarting ∨ s.port.condition ≠ .idle → exec .restartClearing s = .next s) ∧
    (s.mgmt.msel = false → ∀ edge, exec (.mckEdge edge) s = .next s)

/-! ## The scrubber and the bridge state -/

/-- SCRUB_INTERVAL_EXPIRY (R126, R125). -/
def Obligations.ScrubExpiryAppendsAndAdvances : Prop :=
  ∀ (s : State) (tm : Nat), s.scrub.timer = some tm →
    ((∃ o ∈ s.opList.ops, o.work = .scrub) → exec .scrubIntervalExpiry s =
      .next { s with scrub := { s.scrub with timer := some s.scrub.interval } }) ∧
    ((∀ o ∈ s.opList.ops, o.work ≠ .scrub) →
      let ops : OperationList :=
        ⟨s.opList.ops ++ [⟨.scrub, s.scrub.position, s.opList.counter, .queued⟩], s.opList.counter + 1⟩
      (s.scrub.position + 1 < s.capacityLines → exec .scrubIntervalExpiry s = .next (State.settle { s with
        opList := ops
        scrub := { s.scrub with position := s.scrub.position + 1, timer := some s.scrub.interval } })) ∧
      (s.scrub.position + 1 = s.capacityLines → exec .scrubIntervalExpiry s = .next (State.settle { s with
        opList := ops
        scrub := { s.scrub with position := 0, passes := s.scrub.passes + 1, timer := some s.scrub.interval }
        events := s.events.raise .scrubPass })))

/-- QUIESCE_COMPLETE (R156) and RESTART_CLEARING (R161, R116, R173). -/
def Obligations.QuiesceCompletesAndRestartClears : Prop :=
  ∀ s : State, s.port.condition = .idle →
    (s.control.bridge = .quiescing → s.noWork →
      (∀ e : EntryIx, s.buffer.entries[e].state = .free ∨ s.buffer.entries[e].state = .held) →
      exec .quiesceComplete s = .next (State.settle { s with
        control := { s.control with bridge := .quiesced }, events := s.events.raise .quiesced })) ∧
    (s.control.bridge = .restarting → exec .restartClearing s = .next { s with
      upstream := { s.upstream with intake := [], headWait := .none, offerDue := false, responses := [] }
      buffer := { s.buffer with entries := Vector.replicate 16 Entry.free, openOrder := [], counter := 0 }
      reads := Vector.replicate 8 .free
      bitops := Vector.replicate 4 .free
      opList := ⟨[], 0⟩
      lanes := Vector.replicate 4 .idle
      port := { s.port with queue := [], failures := 0 }
      scrub := { s.scrub with running := false, timer := none }
      masters := Vector.replicate 8 ⟨0, none, none⟩
      control := ⟨.config, none⟩
      events := { s.events with pending := 0, stack := [], alert := false } })

/-- START, QUIESCE, CONFIGURE, HALT and RESTART by the bridge state (R152, R154, R155, R157, R158, R160), and the report of a
failed validation (R15, R183). -/
def Obligations.StateCommandsFollowTheBridgeState : Prop :=
  ∀ s : State,
    let b := s.control.bridge
    (b = .config ∨ b = .quiesced → s.regionMap.validate = none →
      exec (.start []) s = .next (State.reply (State.settle { s with
        control := { s.control with bridge := .run }
        scrub := { s.scrub with timer := if s.scrub.running then some s.scrub.interval else none }
        upstream := { s.upstream with offerDue := !s.upstream.intake.isEmpty } }) .ok [])) ∧
    (∀ f, b = .config ∨ b = .quiesced → s.regionMap.validate = some f →
      exec (.start []) s = .next (s.reply .badConfig (match f with
        | .noCapacity => [1, 255, 255]
        | .noRegion => [2, 255, 255]
        | .baseAlignment n => [3, BitVec.ofNat 8 n.val, 255]
        | .beyondCapacity n => [4, BitVec.ofNat 8 n.val, 255]
        | .overlap i j => [5, BitVec.ofNat 8 i.val, BitVec.ofNat 8 j.val]))) ∧
    (b ≠ .config → b ≠ .quiesced → exec (.start []) s = .next (s.reply .badState [])) ∧
    (b = .run → exec (.quiesce []) s = .next (State.reply (State.settle (State.closeAll { s with
      control := { s.control with bridge := .quiescing }, scrub := { s.scrub with timer := none } }
        s.buffer.openOrder)) .ok [])) ∧
    (b = .quiescing ∨ b = .quiesced → exec (.quiesce []) s = .next (s.reply .ok [])) ∧
    (b = .config ∨ b = .halted ∨ b = .restarting → exec (.quiesce []) s = .next (s.reply .badState [])) ∧
    (b = .quiesced → (∀ e : EntryIx, s.buffer.entries[e].state ≠ .held) →
      exec (.configure []) s = .next (State.reply (State.settle { s with
        control := { s.control with bridge := .config }
        upstream := { s.upstream with offerDue := !s.upstream.intake.isEmpty } }) .ok [])) ∧
    ((b ≠ .quiesced ∨ ∃ e : EntryIx, s.buffer.entries[e].state = .held) →
      exec (.configure []) s = .next (s.reply .badState [])) ∧
    (b ≠ .halted → b ≠ .restarting →
      exec (.halt []) s = .next (State.reply (State.settle ((s.halt .command).serveUpstream 256)) .ok [])) ∧
    (b = .halted ∨ b = .restarting → exec (.halt []) s = .next (s.reply .badState [])) ∧
    (b ≠ .restarting → exec (.restart []) s = .next (State.reply (State.settle { s with
      control := { s.control with bridge := .restarting }, scrub := { s.scrub with timer := none } }) .ok [])) ∧
    (b = .restarting → exec (.restart []) s = .next (s.reply .badState []))

/-! ## The region map -/

/-- Validation passes exactly when the five checks do, and otherwise reports the first that fails, with the lowest region or
the lowest pair of regions (R14; sizes of R5, R7, capacities of R3). -/
def Obligations.ValidationIsTheFiveChecks : Prop :=
  ∀ m : RegionMap,
    let size (n : RegionIx) : Nat := 4096 * 2 ^ m.regions[n].sizeCode
    let capacity : Nat := if m.memorySize = 0 then 0 else 65536 * 2 ^ (m.memorySize - 1)
    let misaligned (n : RegionIx) : Prop := m.regions[n].valid = true ∧ m.regions[n].base % size n ≠ 0
    let beyond (n : RegionIx) : Prop := m.regions[n].valid = true ∧ capacity < m.regions[n].offset + size n
    let shared (i j : RegionIx) : Prop := m.regions[i].valid = true ∧ m.regions[j].valid = true ∧
      ∃ a, (m.regions[i].base ≤ a ∧ a < m.regions[i].base + size i) ∧
        (m.regions[j].base ≤ a ∧ a < m.regions[j].base + size j)
    (m.validate = none ↔ m.memorySize ≠ 0 ∧ (∃ n : RegionIx, m.regions[n].valid = true) ∧ (∀ n, ¬misaligned n) ∧
      (∀ n, ¬beyond n) ∧ ∀ i j, i ≠ j → ¬shared i j) ∧
    (m.validate = some .noCapacity ↔ m.memorySize = 0) ∧
    (m.validate = some .noRegion ↔ m.memorySize ≠ 0 ∧ ∀ n : RegionIx, m.regions[n].valid = false) ∧
    (∀ n, m.validate = some (.baseAlignment n) ↔ m.memorySize ≠ 0 ∧ misaligned n ∧ ∀ i, i < n → ¬misaligned i) ∧
    (∀ n, m.validate = some (.beyondCapacity n) ↔
      m.memorySize ≠ 0 ∧ (∀ i, ¬misaligned i) ∧ beyond n ∧ ∀ i, i < n → ¬beyond i) ∧
    ∀ i j, m.validate = some (.overlap i j) ↔
      m.memorySize ≠ 0 ∧ (∀ n, ¬misaligned n) ∧ (∀ n, ¬beyond n) ∧ i < j ∧ shared i j ∧
        (∀ k l, k < i → k < l → ¬shared k l) ∧ ∀ l, i < l → l < j → ¬shared i l

/-- The region lookup of a validated map (R7-R11): no match is UNMAPPED; a match is DENIED for the first cause that applies,
and otherwise MAPPED to an address below the capacity. -/
def Obligations.LookupFollowsTheOneDescriptor : Prop :=
  ∀ (m : RegionMap) (who : MasterIx) (writes : Bool) (a : UpAddr), m.validate = none →
    ((∀ n : RegionIx, m.regions[n].covers a.toNat = false) → m.lookup who writes a = .unmapped) ∧
    (∀ n : RegionIx, m.regions[n].covers a.toNat = true →
      let r := m.regions[n]
      let A := r.offset + (a.toNat - r.base)
      m.lookup who writes a =
        (if r.attr = .closed then .denied n .closed
         else if r.masters.getLsbD who = false then .denied n .master
         else if r.attr = .readOnly ∧ writes = true then .denied n .readOnly
         else .mapped A n r.attr) ∧
      A < 32 * linesOfCode m.memorySize ∧
      (r.base % 4096 = 0 → r.offset % 4096 = 0 → A % 4096 = a.toNat % 4096))

/-! ## Management commands -/

/-- GET_ITEM, READ_ENTRY and READ_MASTER (R180, R40, R90, R179): the value or record asked for, byte by byte as R181 and R184
lay it out, and nothing but the reply changes. -/
def Obligations.ObservingCommandsAnswer : Prop :=
  ∀ (s : State) (i : Byte),
    let le (n v : Nat) : List Byte := (List.range n).map fun k => BitVec.ofNat 8 (v / 256 ^ k)
    let yes (b : Bool) : Nat := if b then 1 else 0
    let region (r : Region) : List Byte :=
      let attr := match r.attr with
        | .combine => 0
        | .direct => 1
        | .readOnly => 2
        | .closed => 3
      le 1 (yes r.valid) ++ le 1 attr ++ le 1 r.sizeCode ++ le 1 r.masters.toNat ++ le 4 r.base ++ le 4 r.offset
    let entry (x : Entry) : List Byte :=
      let state := match x.state with
        | .free => 0
        | .opened => 1
        | .committed => 2
        | .draining => 3
        | .held => 4
      let reason := match x.heldReason with
        | none => 0
        | some .uncorrectable => 1
        | some .timeout => 2
        | some .memFault => 3
      le 1 state ++ le 4 (x.line.getD 0) ++ le 4 x.valid.toNat ++
        ((List.finRange 32).map fun (p : Fin 32) => if x.valid.getLsbD p then x.data[p] else 0) ++ le 1 x.contributors.toNat ++
        le 2 (x.openedOrder.getD 0).toNat ++ le 1 (yes x.closePending) ++ le 2 (x.ageTimer.getD 65535) ++ le 1 reason
    let master (c : MasterCtx) : List Byte :=
      let error := match c.deferred with
        | none => (0, 0)
        | some d => (match d.kind with
          | .lineHeld => 1
          | .writeDenied => 2
          | .writeUnmapped => 3
          | .writeMisaligned => 4
          | .writeNotRunning => 5, d.further)
      let barrier := match c.barrier with
        | none => (0, 0, 0)
        | some b => (1, b.tag.val, b.waitSet.toNat)
      le 2 c.tags.toNat ++ le 1 barrier.1 ++ le 1 barrier.2.1 ++ le 2 barrier.2.2 ++ le 1 error.1 ++ le 1 error.2 ++ [0]
    let level (l : Option Level) : Nat := match l with
      | none => 0
      | some .routine => 1
      | some .urgent => 2
    let bridge := match s.control.bridge with
      | .config => 0
      | .run => 1
      | .quiescing => 2
      | .quiesced => 3
      | .halted => 4
      | .restarting => 5
    let cause := match s.control.haltCause with
      | none => 0
      | some .command => 1
      | some .threshold => 2
    let free := ((List.finRange 16).filter fun (e : EntryIx) => decide (s.buffer.entries[e].state = .free)).length
    let items : List (List Byte) :=
      [[23, 192, 15, 1], le 1 bridge ++ le 1 cause, le 1 s.regionMap.memorySize] ++
      s.regionMap.regions.toList.map region ++
      [le 2 s.buffer.ageLimit, le 1 s.buffer.closeAhead, le 1 s.port.responseTimeout, le 1 s.port.retryLimit,
        le 1 s.port.haltThreshold, le 2 s.scrub.interval, le 4 s.scrub.position ++ le 1 (yes s.scrub.running),
        le 2 s.scrub.passes.toNat, le 2 s.port.correctedCount, le 1 (yes s.port.logCorrected),
        le 2 s.events.enable.toNat, le 2 s.events.urgent.toNat, le 2 s.events.pending.toNat] ++
      [le 1 s.events.stack.length ++ le 1 (level s.events.stack[0]?) ++ le 1 (level s.events.stack[1]?) ++
        le 1 (level s.events.stack.getLast?), le 1 s.faults.records.length ++ le 1 s.faults.overflow, le 1 free,
        le 1 s.port.failures, le 1 s.mgmt.frameErrors]
    (∀ v, items[i.toNat]? = some v → exec (.getItem i []) s = .next (s.reply .ok v)) ∧ items.length = 29 ∧
    (∀ p, p.length ≤ 40 → 29 ≤ i.toNat → exec (.getItem i p) s = .next (s.reply .badItem [])) ∧
    (∀ p, p.length ≤ 40 → p ≠ [] → i.toNat < 29 → exec (.getItem i p) s = .next (s.reply .badValue [])) ∧
    (∀ e : EntryIx, i.toNat = e.val → exec (.readEntry i []) s = .next (s.reply .ok (entry s.buffer.entries[e]))) ∧
    (16 ≤ i.toNat → exec (.readEntry i []) s = .next (s.reply .badValue [])) ∧
    (∀ m : MasterIx, i.toNat = m.val → exec (.readMaster i []) s = .next (s.reply .ok (master s.masters[m]))) ∧
    (8 ≤ i.toNat → exec (.readMaster i []) s = .next (s.reply .badValue []))

/-- SET_ITEM and its rows where the item is stored (R3, R6, R25, R28, R114, R120, R121, R124, R132, R167, R168, R177). Second
part: the twelve bytes of a region descriptor, its fields and the checks of R6 (R5, R184). -/
def Obligations.SetItemStoresTheValue : Prop :=
  (∀ (s : State) (p : List Byte) (lo hi : Byte) (n : RegionIx) (r : Region),
    let v := lo.toNat
    let w := lo.toNat + 256 * hi.toNat
    (s.control.bridge = .config → v ≤ 11 → exec (.setMemorySize [lo]) s = .next (State.reply { s with
      regionMap := { s.regionMap with memorySize := v }
      scrub := { s.scrub with position := if s.scrub.position < linesOfCode v then s.scrub.position else 0 } } .ok [])) ∧
    (s.control.bridge = .config → regionOfBytes p = some r → exec (.setRegion n p) s = .next (State.reply { s with
      regionMap := { s.regionMap with regions := s.regionMap.regions.set n r } } .ok [])) ∧
    (v ≤ 8 → exec (.setCloseAhead [lo]) s = .next (State.reply (State.settle { s with
      buffer := { s.buffer with closeAhead := v } }) .ok [])) ∧
    (p.length = 4 → s.scrub.running = false → leValue p < s.capacityLines → exec (.setScrubPosition p) s =
      .next (State.reply { s with scrub := { s.scrub with position := leValue p } } .ok [])) ∧
    (exec (.setCorrectedCount [lo, hi]) s =
      .next (State.reply { s with port := { s.port with correctedCount := 0 } } .ok [])) ∧
    (exec (.setFrameErrors [lo]) s = .next (State.reply { s with mgmt := { s.mgmt with frameErrors := 0 } } .ok [])) ∧
    (w < 4096 → w % 2 = 1 → s.control.bridge ≠ .restarting →
      exec (.setEventEnable [lo, hi]) s = .next (State.reply { s with
        events := { s.events with enable := BitVec.ofNat 12 w }.recompute } .ok []) ∧
      exec (.setEventLevel [lo, hi]) s = .next (State.reply { s with
        events := { s.events with urgent := BitVec.ofNat 12 w }.recompute } .ok [])) ∧
    (w < 4096 → s.control.bridge ≠ .restarting → exec (.setEventPending [lo, hi]) s = .next (State.reply { s with
      events := { s.events with pending := s.events.pending &&& ~~~(BitVec.ofNat 12 w) }.recompute } .ok [])) ∧
    (w ≤ 1023 → exec (.setItem 11 [lo, hi]) s =
      .next (State.reply { s with buffer := { s.buffer with ageLimit := w } } .ok [])) ∧
    (s.control.bridge = .config → 1 ≤ v → exec (.setItem 13 [lo]) s =
      .next (State.reply { s with port := { s.port with responseTimeout := v } } .ok [])) ∧
    (s.control.bridge = .config → v ≤ 3 → exec (.setItem 14 [lo]) s =
      .next (State.reply { s with port := { s.port with retryLimit := v } } .ok [])) ∧
    (s.control.bridge = .config → 1 ≤ v → v ≤ 15 → exec (.setItem 15 [lo]) s =
      .next (State.reply { s with port := { s.port with haltThreshold := v } } .ok [])) ∧
    (1 ≤ w → exec (.setItem 16 [lo, hi]) s =
      .next (State.reply { s with scrub := { s.scrub with interval := w } } .ok [])) ∧
    (v ≤ 1 → exec (.setItem 20 [lo]) s =
      .next (State.reply { s with port := { s.port with logCorrected := v == 1 } } .ok []))) ∧
  ∀ (v a z m b0 b1 b2 b3 o0 o1 o2 o3 : Byte) (p : List Byte) (r : Region),
    let base := b0.toNat + 256 * b1.toNat + 65536 * b2.toNat + 16777216 * b3.toNat
    let offset := o0.toNat + 256 * o1.toNat + 65536 * o2.toNat + 16777216 * o3.toNat
    (regionOfBytes [v, a, z, m, b0, b1, b2, b3, o0, o1, o2, o3] = some r ↔
      (v = 0 ∨ v = 1) ∧ a.toNat ≤ 3 ∧ z.toNat ≤ 14 ∧ base % 4096 = 0 ∧ offset % 4096 = 0 ∧ base ≤ 2 ^ 32 - 4096 ∧
      offset ≤ 2 ^ 26 - 4096 ∧
      r = { valid := v == 1, base := base, sizeCode := z.toNat, offset := offset, masters := m
            attr := if a = 0 then .combine else if a = 1 then .direct else if a = 2 then .readOnly else .closed }) ∧
    (p.length ≠ 12 → regionOfBytes p = none)

/-- SET_ITEM where the item is refused (R179, R181): BAD-ITEM, BAD-STATE or BAD-VALUE, and nothing but the reply changes. The
rows of single items are SET_ITEM of their item. -/
def Obligations.SetItemRefusesByTheFirstCheck : Prop :=
  ∀ (s : State) (item : Byte) (p : List Byte),
    let i := item.toNat
    let v := leValue p
    let config := s.control.bridge = .config
    (p.length ≤ 40 →
      (i ∈ [0, 1, 18, 24, 25, 26, 27] ∨ 29 ≤ i → exec (.setItem item p) s = .next (s.reply .badItem [])) ∧
      ((i ∈ [2, 3, 4, 5, 6, 7, 8, 9, 10, 13, 14, 15] ∧ ¬config) ∨ (i ∈ [21, 22, 23] ∧ s.control.bridge = .restarting) ∨
          (i = 17 ∧ s.scrub.running = true) → exec (.setItem item p) s = .next (s.reply .badState [])) ∧
      ((i = 2 ∧ config ∧ (p.length ≠ 1 ∨ 11 < v)) ∨ (3 ≤ i ∧ i ≤ 10 ∧ config ∧ regionOfBytes p = none) ∨
          (i = 11 ∧ (p.length ≠ 2 ∨ 1023 < v)) ∨ (i = 12 ∧ (p.length ≠ 1 ∨ 8 < v)) ∨
          (i = 13 ∧ config ∧ (p.length ≠ 1 ∨ v = 0)) ∨ (i = 14 ∧ config ∧ (p.length ≠ 1 ∨ 3 < v)) ∨
          (i = 15 ∧ config ∧ (p.length ≠ 1 ∨ v = 0 ∨ 15 < v)) ∨ (i = 16 ∧ (p.length ≠ 2 ∨ v = 0)) ∨
          (i = 17 ∧ s.scrub.running = false ∧ (p.length ≠ 4 ∨ s.capacityLines ≤ v)) ∨ (i = 19 ∧ p.length ≠ 2) ∨
          (i = 20 ∧ (p.length ≠ 1 ∨ 1 < v)) ∨
          ((i = 21 ∨ i = 22) ∧ s.control.bridge ≠ .restarting ∧ (p.length ≠ 2 ∨ 4096 ≤ v ∨ v % 2 = 0)) ∨
          (i = 23 ∧ s.control.bridge ≠ .restarting ∧ (p.length ≠ 2 ∨ 4096 ≤ v)) ∨ (i = 28 ∧ p.length ≠ 1) →
        exec (.setItem item p) s = .next (s.reply .badValue []))) ∧
    exec (.setMemorySize p) s = exec (.setItem 2 p) s ∧
    (∀ n : RegionIx, exec (.setRegion n p) s = exec (.setItem (BitVec.ofNat 8 (3 + n.val)) p) s) ∧
    exec (.setCloseAhead p) s = exec (.setItem 12 p) s ∧ exec (.setScrubPosition p) s = exec (.setItem 17 p) s ∧
    exec (.setCorrectedCount p) s = exec (.setItem 19 p) s ∧ exec (.setEventEnable p) s = exec (.setItem 21 p) s ∧
    exec (.setEventLevel p) s = exec (.setItem 22 p) s ∧ exec (.setEventPending p) s = exec (.setItem 23 p) s ∧
    exec (.setFrameErrors p) s = exec (.setItem 28 p) s

/-- FLUSH, SCRUB_START and SCRUB_STOP (R32, R131). -/
def Obligations.FlushAndScrubCommands : Prop :=
  ∀ s : State,
    (s.control.bridge = .run → exec (.flush []) s = .next (State.reply (s.closeAll s.buffer.openOrder).settle .ok [])) ∧
    (s.control.bridge ≠ .run → exec (.flush []) s = .next (s.reply .badState [])) ∧
    (s.control.bridge = .run → s.scrub.running = false → exec (.scrubStart []) s = .next (State.reply { s with
      scrub := { s.scrub with running := true, timer := some s.scrub.interval } } .ok [])) ∧
    (s.control.bridge = .run → s.scrub.running = true → exec (.scrubStart []) s = .next (s.reply .ok [])) ∧
    (s.control.bridge ≠ .run → exec (.scrubStart []) s = .next (s.reply .badState [])) ∧
    (s.control.bridge ≠ .restarting → exec (.scrubStop []) s = .next (State.reply (State.settle { s with
      scrub := { s.scrub with running := false, timer := none }
      opList := { s.opList with ops := s.opList.ops.filter fun o => match o.work, o.phase with
        | .scrub, .queued => false
        | _, _ => true } }) .ok [])) ∧
    (s.control.bridge = .restarting → exec (.scrubStop []) s = .next (s.reply .badState []))

/-- RELEASE_DISCARD, RELEASE_RETRY and RELEASE_FORCE (R101-R105): the action on the HELD entry, or the first check that fails. -/
def Obligations.ReleasesActOnTheHeldEntry : Prop :=
  ∀ (s : State) (i : Byte),
    let accepted := s.control.bridge = .run ∨ s.control.bridge = .quiescing ∨ s.control.bridge = .quiesced
    (∀ (e : EntryIx) (L : Nat), i.toNat = e.val → accepted → s.buffer.entries[e].state = .held →
      s.buffer.entries[e].line = some L →
      let x := s.buffer.entries[e]
      let recommitted (k : DrainKind) : State := State.wake { s with
        control := if s.control.bridge = .quiesced then { s.control with bridge := .quiescing } else s.control
        buffer := { s.buffer with entries := s.buffer.entries.set e { x with state := .committed, heldReason := none } }
        opList := ⟨s.opList.ops ++ [⟨.drain k e, L, s.opList.counter, .queued⟩], s.opList.counter + 1⟩ } (.entryChanged L)
      exec (.releaseDiscard i) s = .next (State.reply (State.settle (State.wake (State.wake { s with
        buffer := { s.buffer with
          entries := s.buffer.entries.set e Entry.free, openOrder := s.buffer.openOrder.filter (· != e) }
        masters := s.masters.map fun (c : MasterCtx) => { c with
          barrier := c.barrier.map fun (w : Barrier) => { w with waitSet := removeBit e w.waitSet } } }
            (.entryChanged L)) (.overlayLost L))) .ok []) ∧
      exec (.releaseRetry i) s = .next (State.reply (State.settle
        (recommitted (if x.valid = BitVec.allOnes 32 then .fullWrite else .mergeWrite))) .ok []) ∧
      exec (.releaseForce i) s = .next (State.reply (State.settle (recommitted .forceWrite)) .ok [])) ∧
    ∀ c, c = .releaseDiscard i ∨ c = .releaseRetry i ∨ c = .releaseForce i →
      (¬accepted → exec c s = .next (s.reply .badState [])) ∧
      (accepted → 16 ≤ i.toNat → exec c s = .next (s.reply .badValue [])) ∧
      (∀ e : EntryIx, accepted → i.toNat = e.val → s.buffer.entries[e].state ≠ .held →
        exec c s = .next (s.reply .notHeld []))

/-- FAULT_PEEK, FAULT_POP and FAULT_CLEAR (R164, R165), what logging a fault does (R162, R163), and the 24 bytes of a record
(R184). -/
def Obligations.FaultsAreKeptReadAndCleared : Prop :=
  ∀ (s : State) (f : FaultRecord),
    let le (n v : Nat) : List Byte := (List.range n).map fun k => BitVec.ofNat 8 (v / 256 ^ k)
    let cause (c : DenialCause) : Nat := match c with
      | .closed => 0
      | .master => 1
      | .readOnly => 2
    let bridge (b : BridgeState) : Nat := match b with
      | .config => 0
      | .run => 1
      | .quiescing => 2
      | .quiesced => 3
      | .halted => 4
      | .restarting => 5
    let request (k : ReqKind) : Nat := match k with
      | .read => 0
      | .write => 1
      | .bits .setBits => 2
      | .bits .clearBits => 3
      | .bits .flipBits => 4
      | .barrier => 5
    let command (c : CmdKind) : Nat := match c with
      | .lineRead => 0
      | .lineWrite => 1
    let operation (k : OpKind) : Nat := match k with
      | .drain .fullWrite => 0
      | .drain .mergeWrite => 1
      | .drain .forceWrite => 2
      | .fillRead => 3
      | .bitop => 4
      | .scrub => 5
    -- the kind's code and the detail bytes 18 to 20
    let detail (k : FaultKind) : Nat × Nat × Nat × Nat := match k with
      | .writeDenied c n => (1, cause c, n.val, 0)
      | .writeUnmapped n => (2, n, 0, 0)
      | .writeMisaligned p n => (3, p, n, 0)
      | .writeNotRunning b => (4, bridge b, 0, 0)
      | .tagClash q => (5, request q, 0, 0)
      | .readUncorrectable n => (6, n, 0, 0)
      | .mergeUncorrectable d => (7, match d with
        | .notCovered => 0
        | .overwritten => 1
        | .forced => 2, 0, 0)
      | .bitopUncorrectable d => (8, match d with
        | .targetWord => 0
        | .otherWord => 1, 0, 0)
      | .scrubUncorrectable u c => (9, u, c, 0)
      | .corrected check => (10, if check then 1 else 0, 0, 0)
      | .memTimeout c n => (11, command c, n, 0)
      | .memFault c n => (12, command c, n, 0)
      | .lineHeld r e => (13, match r with
        | .uncorrectable => 1
        | .timeout => 2
        | .memFault => 3, e.val, 0)
      | .halt c b n => (14, match c with
        | .command => 1
        | .threshold => 2, bridge b, n)
    let bit (n : Nat) (b : Bool) : Nat := if b then 2 ^ n else 0
    let bytes (r : FaultRecord) : List Byte :=
      let op : Nat × Nat := match r.operation with
        | none => (0, 0)
        | some o => (operation o.1, o.2.toNat)
      let d := detail r.kind
      le 2 r.sequence.toNat ++ le 1 d.1 ++
        le 2 (bit 0 r.master.isSome + bit 1 r.tag.isSome + bit 2 r.address.isSome + bit 3 r.line.isSome +
          bit 4 r.word.isSome + bit 5 r.bitPosition.isSome + bit 6 r.operation.isSome + bit 7 r.operation.isSome) ++
        le 1 ((r.master.map (·.val)).getD 0) ++ le 1 ((r.tag.map (·.val)).getD 0) ++
        le 4 ((r.address.map (·.toNat)).getD 0) ++ le 4 (r.line.getD 0) ++ le 1 ((r.word.map (·.val)).getD 0) ++
        le 1 (r.bitPosition.getD 0) ++ le 1 op.1 ++ le 1 d.2.1 ++ le 1 d.2.2.1 ++ le 1 d.2.2.2 ++ [0] ++ le 2 op.2
    (s.faults.records.length < 8 → s.logFault f = { s with faults := ⟨s.faults.records ++ [{ f with
      sequence := s.faults.sequence }], s.faults.overflow, s.faults.sequence + 1⟩ }) ∧
    (8 ≤ s.faults.records.length → s.logFault f = { s with
      faults := ⟨s.faults.records, min 255 (s.faults.overflow + 1), s.faults.sequence + 1⟩
      events := s.events.raise .faultOverflow }) ∧
    (s.faults.records = [] → exec (.faultPeek []) s = .next (s.reply .empty []) ∧
      exec (.faultPop []) s = .next (s.reply .empty [])) ∧
    (∀ r rs, s.faults.records = r :: rs → exec (.faultPeek []) s = .next (s.reply .ok (bytes r)) ∧
      exec (.faultPop []) s = .next (State.reply { s with faults := { s.faults with records := rs } } .ok (bytes r))) ∧
    exec (.faultClear []) s =
      .next (State.reply { s with faults := { s.faults with records := [], overflow := 0 } } .ok [])

/-- NEXT_EVENT and END_SERVICE (R171, R172), and ALERT as it is recomputed (R170): asserted exactly while a source is eligible,
and nothing else changes. -/
def Obligations.EventsAreTakenInOrder : Prop :=
  ∀ s : State,
    let above (i : Fin 12) : Prop := s.events.stack.getLast? = none ∨
      (s.events.stack.getLast? = some .routine ∧ s.events.urgent.getLsbD i = true)
    let eligible (i : Fin 12) : Prop :=
      s.events.pending.getLsbD i = true ∧ s.events.enable.getLsbD i = true ∧ above i
    (∀ i : Fin 12, eligible i →
      (∀ j, eligible j → (s.events.urgent.getLsbD j = true → s.events.urgent.getLsbD i = true) ∧
        (s.events.urgent.getLsbD j = s.events.urgent.getLsbD i → i ≤ j)) →
      exec (.nextEvent []) s = .next (State.reply { s with events := EventUnit.recompute { s.events with
        pending := removeBit i s.events.pending
        stack := s.events.stack ++ [if s.events.urgent.getLsbD i then .urgent else .routine] } } .ok
          [BitVec.ofNat 8 (i.val + 1)])) ∧
    ((∀ i, ¬eligible i) → exec (.nextEvent []) s = .next (s.reply .ok [0])) ∧
    (s.events.stack = [] → exec (.endService []) s = .next (s.reply .empty [])) ∧
    (∀ l rest, s.events.stack = rest ++ [l] → exec (.endService []) s = .next (State.reply { s with
      events := EventUnit.recompute { s.events with stack := rest } } .ok [])) ∧
    ((∃ i, eligible i) → s.events.recompute = { s.events with alert := true }) ∧
    ((∀ i, ¬eligible i) → s.events.recompute = { s.events with alert := false })

/-- Frames that are not executed (R175, R176, R179): the reply alone changes. A payload above 40 bytes answers BAD-CHECK as
R175 says of a length byte above 40; for a payload above 255 bytes, which no length byte announces, that is the model's choice
(log entry 6). CONFIGURE's condition on HELD entries counts as its state check (log entry 13). -/
def Obligations.BadFramesAreAnswered : Prop :=
  ∀ (s : State) (p : List Byte) (i : Byte) (n : RegionIx),
    exec .badCheckFrame s = .next (s.reply .badCheck []) ∧
    exec .badCommandFrame s = .next (s.reply .badCommand []) ∧
    (40 < p.length → ∀ c ∈ [Instr.getItem i p, .setItem i p, .setMemorySize p, .setRegion n p, .setCloseAhead p,
        .setScrubPosition p, .setCorrectedCount p, .setFrameErrors p, .setEventEnable p, .setEventLevel p, .setEventPending p,
        .start p, .quiesce p, .configure p, .halt p, .restart p, .flush p, .readEntry i p, .readMaster i p, .faultPeek p,
        .faultPop p, .faultClear p, .nextEvent p, .endService p, .scrubStart p, .scrubStop p],
      exec c s = .next (s.reply .badCheck [])) ∧
    (p ≠ [] → p.length ≤ 40 →
      (∀ c ∈ [Instr.readEntry i p, .readMaster i p, .faultPeek p, .faultPop p, .faultClear p, .nextEvent p, .endService p],
        exec c s = .next (s.reply .badValue [])) ∧
      let held := ∃ e : EntryIx, s.buffer.entries[e].state = .held
      ∀ (c : Instr) (accepted : Prop),
        let b := s.control.bridge
        (c = .start p ∧ (accepted ↔ b = .config ∨ b = .quiesced)) ∨
          (c = .quiesce p ∧ (accepted ↔ b = .run ∨ b = .quiescing ∨ b = .quiesced)) ∨
          (c = .configure p ∧ (accepted ↔ b = .quiesced ∧ ¬held)) ∨
          (c = .halt p ∧ (accepted ↔ b ≠ .halted ∧ b ≠ .restarting)) ∨
          ((c = .restart p ∨ c = .scrubStop p) ∧ (accepted ↔ b ≠ .restarting)) ∨
          ((c = .flush p ∨ c = .scrubStart p) ∧ (accepted ↔ b = .run)) →
        (accepted → exec c s = .next (s.reply .badValue [])) ∧ (¬accepted → exec c s = .next (s.reply .badState [])))

/-! ## The serial port -/

/-- MCK_EDGE: the bits of a complete command frame, most significant first, have the effect of the frame's row, for each of the
codes 1 to 18 (R184), for the frames that are not executed (R174-R176, R179), and for the actions of RELEASE (R183, R101). -/
def Obligations.ClockedFramesAreTheirRows : Prop :=
  ∀ (s : State) (code arg len crc : Byte) (p : List Byte), s.mgmt.msel = true → s.mgmt.condition = .command →
    s.mgmt.bytes = [] → s.mgmt.bits = [] →
    let run (frame : List Byte) : Host.Outcome State Fault Refusal :=
      (frame.flatMap fun b => (List.range 8).map fun k => b.getLsbD (7 - k)).foldl
        (fun o bit => match o with
          | .next t => exec (.mckEdge (.rising bit)) t
          | x => x) (.next s)
    let body := code :: arg :: BitVec.ofNat 8 p.length :: p
    (p.length ≤ 40 → ∀ c : Instr, (code, c) ∈ [((1 : Byte), Instr.getItem arg p), (2, .setItem arg p), (3, .start p),
        (4, .quiesce p), (5, .configure p), (6, .halt p), (7, .restart p), (8, .flush p), (9, .readEntry arg p),
        (10, .readMaster arg p), (12, .faultPeek p), (13, .faultPop p), (14, .faultClear p), (15, .nextEvent p),
        (16, .endService p), (17, .scrubStart p), (18, .scrubStop p)] → run (body ++ [crc8 body]) = exec c s) ∧
    (code = 11 → (p = [0] → run (body ++ [crc8 body]) = exec (.releaseDiscard arg) s) ∧
      (p = [1] → run (body ++ [crc8 body]) = exec (.releaseRetry arg) s) ∧
      (p = [2] → run (body ++ [crc8 body]) = exec (.releaseForce arg) s) ∧
      (p.length ≤ 40 → p ≠ [0] → p ≠ [1] → p ≠ [2] → run (body ++ [crc8 body]) = .next (s.reply
        (if s.control.bridge = .run ∨ s.control.bridge = .quiescing ∨ s.control.bridge = .quiesced then .badValue
          else .badState) []))) ∧
    (p.length ≤ 40 → code = 0 ∨ 19 ≤ code.toNat → run (body ++ [crc8 body]) = exec .badCommandFrame s) ∧
    (p.length ≤ 40 → crc ≠ crc8 body → run (body ++ [crc]) = exec .badCheckFrame s) ∧
    (40 < len.toNat → run [code, arg, len] = exec .badCheckFrame s)

/-- MCK_EDGE: falling edges in REPLY put out the filler bytes and the response frame bit by bit, MDI being ignored at the
rising edges between them, and the eighth rising edge of the last byte, which completes it, leaves the engine TRAILING (R174,
R178), where a falling edge puts out filler. -/
def Obligations.ReplyIsShiftedOut : Prop :=
  ∀ (s : State) (mdi : List Bool) (last : Bool), s.mgmt.msel = true → s.mgmt.condition = .reply → s.mgmt.sent = 0 →
    let stream := List.replicate s.mgmt.fillers (255 : Byte) ++ s.mgmt.response
    let n := mdi.length
    n < 8 * stream.length →
    let run (edges : List Edge) : Host.Outcome State Fault Refusal := edges.foldl
      (fun o e => match o with
        | .next t => exec (.mckEdge e) t
        | x => x) (.next s)
    let shown : State := { s with mgmt := { s.mgmt with
      mdo := (stream.getD (n / 8) 255).getLsbD (7 - n % 8), sent := n + 1 } }
    let ended : State := { shown with mgmt := { shown.mgmt with condition := .trailing } }
    let edges := (mdi.flatMap fun b => [Edge.falling, .rising b]) ++ [.falling]
    run edges = .next shown ∧
    (n + 1 < 8 * stream.length → run (edges ++ [.rising last]) = .next shown) ∧
    (n + 1 = 8 * stream.length → run (edges ++ [.rising last]) = .next ended ∧
      run (edges ++ [.rising last, .falling]) = .next { ended with mgmt := { ended.mgmt with mdo := true } })

/-- The reply a command leaves in the port (R174, R178): REPLY, with a response frame of marker 90, status, length, payload and
CRC-8, and 1 to 4 filler bytes, whatever their number (log entries 1, 6). -/
def Obligations.RepliesFrameTheirPayload : Prop :=
  ∀ (s : State) (st : MgmtStatus) (d : List Byte), d.length ≤ 48 →
    let code : Byte := match st with
      | .ok => 0
      | .badCheck => 1
      | .badCommand => 2
      | .badItem => 3
      | .badValue => 4
      | .badState => 5
      | .badConfig => 6
      | .notHeld => 7
      | .empty => 8
    let body : List Byte := 90 :: code :: BitVec.ofNat 8 d.length :: d
    ∃ n, 1 ≤ n ∧ n ≤ 4 ∧ s.reply st d = { s with mgmt := { s.mgmt with
      msel := true, condition := .reply, bytes := [], bits := [], sent := 0, fillers := n
      exchanges := s.mgmt.exchanges + 1
      response := body ++ [crc8 body] } }
end

