-- ==== Sys2Proof/Laws/Basics.lean ====
section
/-! SUPPORT. What the shared choices, counts and sets answer. -/
namespace Sys2Proof.Machine

/-- The lowest-numbered index that passes a test passes it, and no lower one does. -/
theorem lowestFin_some {n : Nat} {p : Fin n → Bool} {i : Fin n} :
    lowestFin n p = some i ↔ p i = true ∧ ∀ j : Fin n, j < i → p j = false := by
  unfold lowestFin
  rw [List.find?_eq_some_iff_getElem]
  constructor
  · rintro ⟨hp, k, hk, rfl, hlt⟩
    refine ⟨hp, fun j hj => ?_⟩
    have hj' : j.val < k := by
      have := Fin.lt_def.mp hj
      simpa using this
    have h := hlt j.val hj'
    simpa using h
  · rintro ⟨hp, h⟩
    refine ⟨hp, i.val, by simp, by simp, fun j hj => ?_⟩
    have hjn : j < n := Nat.lt_trans hj i.isLt
    have h' := h ⟨j, hjn⟩ hj
    simpa using h'

/-- No index passes the test. -/
theorem lowestFin_none {n : Nat} {p : Fin n → Bool} : lowestFin n p = none ↔ ∀ i : Fin n, p i = false := by
  unfold lowestFin
  simp

/-- None counted means none passes. -/
theorem countFin_zero {n : Nat} {p : Fin n → Bool} : countFin n p = 0 ↔ ∀ i : Fin n, p i = false := by
  unfold countFin
  simp [List.filter_eq_nil_iff]

theorem getLsbD_insertBit {n : Nat} (i j : Nat) (v : BitVec n) :
    (insertBit i v).getLsbD j = (v.getLsbD j || (decide (j < n) && decide (i = j))) := by
  by_cases h : i = j
  · subst h; simp [insertBit]
  · simp [insertBit, h]

theorem getLsbD_removeBit {n : Nat} (i j : Nat) (v : BitVec n) (h : j < n) :
    (removeBit i v).getLsbD j = (v.getLsbD j && !decide (i = j)) := by
  have e : decide (j = i) = decide (i = j) := by simp [eq_comm]
  simp [removeBit, h, e]

/-- Position `j` is in the span of `count` positions from `first`. -/
theorem getLsbD_spanSet (first count j : Nat) (hj : j < 32) :
    (spanSet first count).getLsbD j = (decide (first ≤ j) && decide (j < first + count)) := by
  by_cases h1 : first ≤ j
  · by_cases h3 : j < first + count
    · have h4 : j - first < count := by omega
      have h5 : ¬ j < first := by omega
      simp [spanSet, hj, h1, h3, h4, h5]
    · have h4 : ¬ j - first < count := by omega
      simp [spanSet, hj, h1, h3, h4]
  · have h5 : j < first := by omega
    simp [spanSet, hj, h1, h5]

/-- A list with its first passing member changed has the members it had, one of them changed. -/
theorem modifyFirst_append {p : Operation → Bool} {f : Operation → Operation} {pre post : List Operation} {o : Operation}
    (hp : p o = true) (hn : ∀ x ∈ pre, p x = false) :
    modifyFirst p f (pre ++ o :: post) = pre ++ f o :: post := by
  induction pre with
  | nil => simp [modifyFirst, hp]
  | cons x xs ih =>
    have hx : p x = false := hn x (by simp)
    simp [modifyFirst, hx, ih fun y hy => hn y (by simp [hy])]

/-- The changed list has the length it had. -/
theorem modifyFirst_length (p : Operation → Bool) (f : Operation → Operation) (l : List Operation) :
    (modifyFirst p f l).length = l.length := by
  induction l with
  | nil => rfl
  | cons x xs ih => unfold modifyFirst; split <;> simp [ih]

/-- A property that the change keeps holds of every member of the changed list. -/
theorem modifyFirst_map {α : Type} (g : Operation → α) {p : Operation → Bool} {f : Operation → Operation}
    (h : ∀ o, p o = true → g (f o) = g o) (l : List Operation) : (modifyFirst p f l).map g = l.map g := by
  induction l with
  | nil => rfl
  | cons x xs ih =>
    unfold modifyFirst
    split
    · next hp => simp [h x hp]
    · simp [ih]

/-! ## Bytes and words of a line -/

/-- Byte `j` of word `w` is the byte at position 8w + j (R1, R2). -/
theorem wordByte_lineWord (d : LineBytes) (w : WordIx) (j : Fin 8) :
    wordByte (lineWord d w) j = d[8 * w.val + j.val]'(by omega) := by
  apply BitVec.eq_of_getLsbD_eq
  intro i hi
  have hl : (List.finRange 8) = [0, 1, 2, 3, 4, 5, 6, 7] := by decide
  simp only [wordByte, lineWord, hl, List.foldl, BitVec.getLsbD_extractLsb', BitVec.getLsbD_or, BitVec.getLsbD_shiftLeft,
    BitVec.getLsbD_setWidth, hi, decide_true, Bool.true_and]
  have key : ∀ k : Fin 8, (decide (8 * j.val + i < 64) && !decide (8 * j.val + i < 8 * k.val) &&
      (decide (8 * j.val + i - 8 * k.val < 64) && (d[8 * w.val + k.val]'(by omega)).getLsbD (8 * j.val + i - 8 * k.val))) =
      (decide (j = k) && (d[8 * w.val + j.val]'(by omega)).getLsbD i) := by
    intro k
    by_cases h : j = k
    · subst h
      have h1 : 8 * j.val + i < 64 := by omega
      have h2 : 8 * j.val + i - 8 * j.val = i := by omega
      have h3 : ¬ (8 * j.val + i < 8 * j.val) := by omega
      have h4 : i < 64 := by omega
      simp [h1, h2, h4]
    · have hne : j.val ≠ k.val := fun x => h (Fin.ext x)
      by_cases hlt : j.val < k.val
      · have h3 : 8 * j.val + i < 8 * k.val := by omega
        simp [h, h3]
      · have h3 : 8 ≤ 8 * j.val + i - 8 * k.val := by omega
        rw [BitVec.getLsbD_of_ge _ _ h3]
        simp [h]
  rw [key 0, key 1, key 2, key 3, key 4, key 5, key 6, key 7]
  have : BitVec.getLsbD (0 : DataWord) (8 * j.val + i) = false := by simp
  rw [this]
  clear key this
  cases (d[8 * w.val + j.val]'(by omega)).getLsbD i
  · simp
  · revert j; decide

/-- The positions of word `w` (R2). -/
theorem getLsbD_wordSet (w : WordIx) (p : Fin 32) : (wordSet w).getLsbD p = decide (p.val / 8 = w.val) := by
  revert p; revert w; decide +kernel

/-- A word is covered when every position of it is in the set (R54). -/
theorem covered_iff (v : PosSet) (w : WordIx) :
    covered v w = true ↔ ∀ p : Fin 32, p.val / 8 = w.val → v.getLsbD p = true := by
  simp only [covered, beq_iff_eq]
  constructor
  · intro h p hp
    have := congrArg (·.getLsbD p.val) h
    simp [getLsbD_wordSet, hp] at this
    simpa using this
  · intro h
    apply BitVec.eq_of_getLsbD_eq
    intro i hi
    have h1 := getLsbD_wordSet w ⟨i, hi⟩
    have h2 := h ⟨i, hi⟩
    simp only at h1 h2
    by_cases h3 : i / 8 = w.val
    · simp only [h3, decide_true] at h1
      simp [h1, hi, h2 h3]
    · simp [h1, h3]

/-! ## A failed drain -/

/-- A failed drain changes no lane (R96). -/
@[simp] theorem State.drainFails_lanes (s : State) (e : EntryIx) (r : HeldReason) (op : OpKind × BitVec 16)
    (w : Option WordIx) : (s.drainFails e r op w).lanes = s.lanes := by
  unfold State.drainFails State.fold
  dsimp only
  split
  · rfl
  · split
    · split <;> rfl
    · rfl

end Sys2Proof.Machine
end

