-- ==== Sys2Proof/Laws/State.lean ====
section
/-! SUPPORT. What each named update does to each field of State, one lemma per field per update. -/
namespace Sys2Proof.Machine

variable (s : State)

@[simp] theorem State.raise_regionMap (e : EventSource) : (s.raise e).regionMap = s.regionMap := rfl
@[simp] theorem State.raise_upstream (e : EventSource) : (s.raise e).upstream = s.upstream := rfl
@[simp] theorem State.raise_buffer (e : EventSource) : (s.raise e).buffer = s.buffer := rfl
@[simp] theorem State.raise_reads (e : EventSource) : (s.raise e).reads = s.reads := rfl
@[simp] theorem State.raise_bitops (e : EventSource) : (s.raise e).bitops = s.bitops := rfl
@[simp] theorem State.raise_opList (e : EventSource) : (s.raise e).opList = s.opList := rfl
@[simp] theorem State.raise_lanes (e : EventSource) : (s.raise e).lanes = s.lanes := rfl
@[simp] theorem State.raise_port (e : EventSource) : (s.raise e).port = s.port := rfl
@[simp] theorem State.raise_scrub (e : EventSource) : (s.raise e).scrub = s.scrub := rfl
@[simp] theorem State.raise_masters (e : EventSource) : (s.raise e).masters = s.masters := rfl
@[simp] theorem State.raise_control (e : EventSource) : (s.raise e).control = s.control := rfl
@[simp] theorem State.raise_faults (e : EventSource) : (s.raise e).faults = s.faults := rfl
@[simp] theorem State.raise_events (e : EventSource) : (s.raise e).events = s.events.raise e := rfl
@[simp] theorem State.raise_mgmt (e : EventSource) : (s.raise e).mgmt = s.mgmt := rfl
@[simp] theorem State.raise_pending (e : EventSource) : (s.raise e).pending = s.pending := rfl

@[simp] theorem State.logFault_regionMap (r : FaultRecord) : (s.logFault r).regionMap = s.regionMap := rfl
@[simp] theorem State.logFault_upstream (r : FaultRecord) : (s.logFault r).upstream = s.upstream := rfl
@[simp] theorem State.logFault_buffer (r : FaultRecord) : (s.logFault r).buffer = s.buffer := rfl
@[simp] theorem State.logFault_reads (r : FaultRecord) : (s.logFault r).reads = s.reads := rfl
@[simp] theorem State.logFault_bitops (r : FaultRecord) : (s.logFault r).bitops = s.bitops := rfl
@[simp] theorem State.logFault_opList (r : FaultRecord) : (s.logFault r).opList = s.opList := rfl
@[simp] theorem State.logFault_lanes (r : FaultRecord) : (s.logFault r).lanes = s.lanes := rfl
@[simp] theorem State.logFault_port (r : FaultRecord) : (s.logFault r).port = s.port := rfl
@[simp] theorem State.logFault_scrub (r : FaultRecord) : (s.logFault r).scrub = s.scrub := rfl
@[simp] theorem State.logFault_masters (r : FaultRecord) : (s.logFault r).masters = s.masters := rfl
@[simp] theorem State.logFault_control (r : FaultRecord) : (s.logFault r).control = s.control := rfl
@[simp] theorem State.logFault_faults (r : FaultRecord) : (s.logFault r).faults = s.faults.offer r := rfl
@[simp] theorem State.logFault_events (r : FaultRecord) :
    (s.logFault r).events = if s.faults.full then s.events.raise .faultOverflow else s.events := rfl
@[simp] theorem State.logFault_mgmt (r : FaultRecord) : (s.logFault r).mgmt = s.mgmt := rfl
@[simp] theorem State.logFault_pending (r : FaultRecord) : (s.logFault r).pending = s.pending := rfl

@[simp] theorem State.mapMasters_regionMap (f : MasterIx → MasterCtx → MasterCtx) :
    (s.mapMasters f).regionMap = s.regionMap := rfl
@[simp] theorem State.mapMasters_upstream (f : MasterIx → MasterCtx → MasterCtx) :
    (s.mapMasters f).upstream = s.upstream := rfl
@[simp] theorem State.mapMasters_buffer (f : MasterIx → MasterCtx → MasterCtx) :
    (s.mapMasters f).buffer = s.buffer := rfl
@[simp] theorem State.mapMasters_reads (f : MasterIx → MasterCtx → MasterCtx) : (s.mapMasters f).reads = s.reads := rfl
@[simp] theorem State.mapMasters_bitops (f : MasterIx → MasterCtx → MasterCtx) :
    (s.mapMasters f).bitops = s.bitops := rfl
@[simp] theorem State.mapMasters_opList (f : MasterIx → MasterCtx → MasterCtx) :
    (s.mapMasters f).opList = s.opList := rfl
@[simp] theorem State.mapMasters_lanes (f : MasterIx → MasterCtx → MasterCtx) : (s.mapMasters f).lanes = s.lanes := rfl
@[simp] theorem State.mapMasters_port (f : MasterIx → MasterCtx → MasterCtx) : (s.mapMasters f).port = s.port := rfl
@[simp] theorem State.mapMasters_scrub (f : MasterIx → MasterCtx → MasterCtx) : (s.mapMasters f).scrub = s.scrub := rfl
@[simp] theorem State.mapMasters_masters (f : MasterIx → MasterCtx → MasterCtx) :
    (s.mapMasters f).masters = Vector.ofFn fun m => f m s.masters[m] := rfl
@[simp] theorem State.mapMasters_control (f : MasterIx → MasterCtx → MasterCtx) :
    (s.mapMasters f).control = s.control := rfl
@[simp] theorem State.mapMasters_faults (f : MasterIx → MasterCtx → MasterCtx) :
    (s.mapMasters f).faults = s.faults := rfl
@[simp] theorem State.mapMasters_events (f : MasterIx → MasterCtx → MasterCtx) :
    (s.mapMasters f).events = s.events := rfl
@[simp] theorem State.mapMasters_mgmt (f : MasterIx → MasterCtx → MasterCtx) : (s.mapMasters f).mgmt = s.mgmt := rfl
@[simp] theorem State.mapMasters_pending (f : MasterIx → MasterCtx → MasterCtx) :
    (s.mapMasters f).pending = s.pending := rfl

@[simp] theorem State.updateMaster_regionMap (m : MasterIx) (f : MasterCtx → MasterCtx) :
    (s.updateMaster m f).regionMap = s.regionMap := rfl
@[simp] theorem State.updateMaster_upstream (m : MasterIx) (f : MasterCtx → MasterCtx) :
    (s.updateMaster m f).upstream = s.upstream := rfl
@[simp] theorem State.updateMaster_buffer (m : MasterIx) (f : MasterCtx → MasterCtx) :
    (s.updateMaster m f).buffer = s.buffer := rfl
@[simp] theorem State.updateMaster_reads (m : MasterIx) (f : MasterCtx → MasterCtx) :
    (s.updateMaster m f).reads = s.reads := rfl
@[simp] theorem State.updateMaster_bitops (m : MasterIx) (f : MasterCtx → MasterCtx) :
    (s.updateMaster m f).bitops = s.bitops := rfl
@[simp] theorem State.updateMaster_opList (m : MasterIx) (f : MasterCtx → MasterCtx) :
    (s.updateMaster m f).opList = s.opList := rfl
@[simp] theorem State.updateMaster_lanes (m : MasterIx) (f : MasterCtx → MasterCtx) :
    (s.updateMaster m f).lanes = s.lanes := rfl
@[simp] theorem State.updateMaster_port (m : MasterIx) (f : MasterCtx → MasterCtx) :
    (s.updateMaster m f).port = s.port := rfl
@[simp] theorem State.updateMaster_scrub (m : MasterIx) (f : MasterCtx → MasterCtx) :
    (s.updateMaster m f).scrub = s.scrub := rfl
@[simp] theorem State.updateMaster_masters (m : MasterIx) (f : MasterCtx → MasterCtx) :
    (s.updateMaster m f).masters = s.masters.set m (f s.masters[m]) := rfl
@[simp] theorem State.updateMaster_control (m : MasterIx) (f : MasterCtx → MasterCtx) :
    (s.updateMaster m f).control = s.control := rfl
@[simp] theorem State.updateMaster_faults (m : MasterIx) (f : MasterCtx → MasterCtx) :
    (s.updateMaster m f).faults = s.faults := rfl
@[simp] theorem State.updateMaster_events (m : MasterIx) (f : MasterCtx → MasterCtx) :
    (s.updateMaster m f).events = s.events := rfl
@[simp] theorem State.updateMaster_mgmt (m : MasterIx) (f : MasterCtx → MasterCtx) :
    (s.updateMaster m f).mgmt = s.mgmt := rfl
@[simp] theorem State.updateMaster_pending (m : MasterIx) (f : MasterCtx → MasterCtx) :
    (s.updateMaster m f).pending = s.pending := rfl

@[simp] theorem State.recordError_regionMap (m : MasterIx) (k : DeferredKind) :
    (s.recordError m k).regionMap = s.regionMap := rfl
@[simp] theorem State.recordError_upstream (m : MasterIx) (k : DeferredKind) :
    (s.recordError m k).upstream = s.upstream := rfl
@[simp] theorem State.recordError_buffer (m : MasterIx) (k : DeferredKind) :
    (s.recordError m k).buffer = s.buffer := rfl
@[simp] theorem State.recordError_reads (m : MasterIx) (k : DeferredKind) : (s.recordError m k).reads = s.reads := rfl
@[simp] theorem State.recordError_bitops (m : MasterIx) (k : DeferredKind) :
    (s.recordError m k).bitops = s.bitops := rfl
@[simp] theorem State.recordError_opList (m : MasterIx) (k : DeferredKind) :
    (s.recordError m k).opList = s.opList := rfl
@[simp] theorem State.recordError_lanes (m : MasterIx) (k : DeferredKind) : (s.recordError m k).lanes = s.lanes := rfl
@[simp] theorem State.recordError_port (m : MasterIx) (k : DeferredKind) : (s.recordError m k).port = s.port := rfl
@[simp] theorem State.recordError_scrub (m : MasterIx) (k : DeferredKind) : (s.recordError m k).scrub = s.scrub := rfl
@[simp] theorem State.recordError_masters (m : MasterIx) (k : DeferredKind) :
    (s.recordError m k).masters = s.masters.set m (s.masters[m].record k) := rfl
@[simp] theorem State.recordError_control (m : MasterIx) (k : DeferredKind) :
    (s.recordError m k).control = s.control := rfl
@[simp] theorem State.recordError_faults (m : MasterIx) (k : DeferredKind) :
    (s.recordError m k).faults = s.faults := rfl
@[simp] theorem State.recordError_events (m : MasterIx) (k : DeferredKind) :
    (s.recordError m k).events = s.events := rfl
@[simp] theorem State.recordError_mgmt (m : MasterIx) (k : DeferredKind) : (s.recordError m k).mgmt = s.mgmt := rfl
@[simp] theorem State.recordError_pending (m : MasterIx) (k : DeferredKind) :
    (s.recordError m k).pending = s.pending := rfl

@[simp] theorem State.recordErrors_regionMap (set : MasterSet) (k : DeferredKind) :
    (s.recordErrors set k).regionMap = s.regionMap := rfl
@[simp] theorem State.recordErrors_upstream (set : MasterSet) (k : DeferredKind) :
    (s.recordErrors set k).upstream = s.upstream := rfl
@[simp] theorem State.recordErrors_buffer (set : MasterSet) (k : DeferredKind) :
    (s.recordErrors set k).buffer = s.buffer := rfl
@[simp] theorem State.recordErrors_reads (set : MasterSet) (k : DeferredKind) :
    (s.recordErrors set k).reads = s.reads := rfl
@[simp] theorem State.recordErrors_bitops (set : MasterSet) (k : DeferredKind) :
    (s.recordErrors set k).bitops = s.bitops := rfl
@[simp] theorem State.recordErrors_opList (set : MasterSet) (k : DeferredKind) :
    (s.recordErrors set k).opList = s.opList := rfl
@[simp] theorem State.recordErrors_lanes (set : MasterSet) (k : DeferredKind) :
    (s.recordErrors set k).lanes = s.lanes := rfl
@[simp] theorem State.recordErrors_port (set : MasterSet) (k : DeferredKind) :
    (s.recordErrors set k).port = s.port := rfl
@[simp] theorem State.recordErrors_scrub (set : MasterSet) (k : DeferredKind) :
    (s.recordErrors set k).scrub = s.scrub := rfl
@[simp] theorem State.recordErrors_masters (set : MasterSet) (k : DeferredKind) :
    (s.recordErrors set k).masters = Vector.ofFn fun m => if set.getLsbD m then s.masters[m].record k else s.masters[m] := rfl
@[simp] theorem State.recordErrors_control (set : MasterSet) (k : DeferredKind) :
    (s.recordErrors set k).control = s.control := rfl
@[simp] theorem State.recordErrors_faults (set : MasterSet) (k : DeferredKind) :
    (s.recordErrors set k).faults = s.faults := rfl
@[simp] theorem State.recordErrors_events (set : MasterSet) (k : DeferredKind) :
    (s.recordErrors set k).events = s.events := rfl
@[simp] theorem State.recordErrors_mgmt (set : MasterSet) (k : DeferredKind) :
    (s.recordErrors set k).mgmt = s.mgmt := rfl
@[simp] theorem State.recordErrors_pending (set : MasterSet) (k : DeferredKind) :
    (s.recordErrors set k).pending = s.pending := rfl

@[simp] theorem State.leaveWaitSets_regionMap (e : EntryIx) : (s.leaveWaitSets e).regionMap = s.regionMap := rfl
@[simp] theorem State.leaveWaitSets_upstream (e : EntryIx) : (s.leaveWaitSets e).upstream = s.upstream := rfl
@[simp] theorem State.leaveWaitSets_buffer (e : EntryIx) : (s.leaveWaitSets e).buffer = s.buffer := rfl
@[simp] theorem State.leaveWaitSets_reads (e : EntryIx) : (s.leaveWaitSets e).reads = s.reads := rfl
@[simp] theorem State.leaveWaitSets_bitops (e : EntryIx) : (s.leaveWaitSets e).bitops = s.bitops := rfl
@[simp] theorem State.leaveWaitSets_opList (e : EntryIx) : (s.leaveWaitSets e).opList = s.opList := rfl
@[simp] theorem State.leaveWaitSets_lanes (e : EntryIx) : (s.leaveWaitSets e).lanes = s.lanes := rfl
@[simp] theorem State.leaveWaitSets_port (e : EntryIx) : (s.leaveWaitSets e).port = s.port := rfl
@[simp] theorem State.leaveWaitSets_scrub (e : EntryIx) : (s.leaveWaitSets e).scrub = s.scrub := rfl
@[simp] theorem State.leaveWaitSets_masters (e : EntryIx) :
    (s.leaveWaitSets e).masters = Vector.ofFn fun m : MasterIx => { s.masters[m] with barrier := s.masters[m].barrier.map fun b => { b with waitSet := removeBit e b.waitSet } } := rfl
@[simp] theorem State.leaveWaitSets_control (e : EntryIx) : (s.leaveWaitSets e).control = s.control := rfl
@[simp] theorem State.leaveWaitSets_faults (e : EntryIx) : (s.leaveWaitSets e).faults = s.faults := rfl
@[simp] theorem State.leaveWaitSets_events (e : EntryIx) : (s.leaveWaitSets e).events = s.events := rfl
@[simp] theorem State.leaveWaitSets_mgmt (e : EntryIx) : (s.leaveWaitSets e).mgmt = s.mgmt := rfl
@[simp] theorem State.leaveWaitSets_pending (e : EntryIx) : (s.leaveWaitSets e).pending = s.pending := rfl

@[simp] theorem State.addTag_regionMap (m : MasterIx) (t : Tag) : (s.addTag m t).regionMap = s.regionMap := rfl
@[simp] theorem State.addTag_upstream (m : MasterIx) (t : Tag) : (s.addTag m t).upstream = s.upstream := rfl
@[simp] theorem State.addTag_buffer (m : MasterIx) (t : Tag) : (s.addTag m t).buffer = s.buffer := rfl
@[simp] theorem State.addTag_reads (m : MasterIx) (t : Tag) : (s.addTag m t).reads = s.reads := rfl
@[simp] theorem State.addTag_bitops (m : MasterIx) (t : Tag) : (s.addTag m t).bitops = s.bitops := rfl
@[simp] theorem State.addTag_opList (m : MasterIx) (t : Tag) : (s.addTag m t).opList = s.opList := rfl
@[simp] theorem State.addTag_lanes (m : MasterIx) (t : Tag) : (s.addTag m t).lanes = s.lanes := rfl
@[simp] theorem State.addTag_port (m : MasterIx) (t : Tag) : (s.addTag m t).port = s.port := rfl
@[simp] theorem State.addTag_scrub (m : MasterIx) (t : Tag) : (s.addTag m t).scrub = s.scrub := rfl
@[simp] theorem State.addTag_masters (m : MasterIx) (t : Tag) :
    (s.addTag m t).masters = s.masters.set m { s.masters[m] with tags := insertBit t s.masters[m].tags } := rfl
@[simp] theorem State.addTag_control (m : MasterIx) (t : Tag) : (s.addTag m t).control = s.control := rfl
@[simp] theorem State.addTag_faults (m : MasterIx) (t : Tag) : (s.addTag m t).faults = s.faults := rfl
@[simp] theorem State.addTag_events (m : MasterIx) (t : Tag) : (s.addTag m t).events = s.events := rfl
@[simp] theorem State.addTag_mgmt (m : MasterIx) (t : Tag) : (s.addTag m t).mgmt = s.mgmt := rfl
@[simp] theorem State.addTag_pending (m : MasterIx) (t : Tag) : (s.addTag m t).pending = s.pending := rfl

@[simp] theorem State.removeTag_regionMap (m : MasterIx) (t : Tag) : (s.removeTag m t).regionMap = s.regionMap := rfl
@[simp] theorem State.removeTag_upstream (m : MasterIx) (t : Tag) : (s.removeTag m t).upstream = s.upstream := rfl
@[simp] theorem State.removeTag_buffer (m : MasterIx) (t : Tag) : (s.removeTag m t).buffer = s.buffer := rfl
@[simp] theorem State.removeTag_reads (m : MasterIx) (t : Tag) : (s.removeTag m t).reads = s.reads := rfl
@[simp] theorem State.removeTag_bitops (m : MasterIx) (t : Tag) : (s.removeTag m t).bitops = s.bitops := rfl
@[simp] theorem State.removeTag_opList (m : MasterIx) (t : Tag) : (s.removeTag m t).opList = s.opList := rfl
@[simp] theorem State.removeTag_lanes (m : MasterIx) (t : Tag) : (s.removeTag m t).lanes = s.lanes := rfl
@[simp] theorem State.removeTag_port (m : MasterIx) (t : Tag) : (s.removeTag m t).port = s.port := rfl
@[simp] theorem State.removeTag_scrub (m : MasterIx) (t : Tag) : (s.removeTag m t).scrub = s.scrub := rfl
@[simp] theorem State.removeTag_masters (m : MasterIx) (t : Tag) :
    (s.removeTag m t).masters = s.masters.set m { s.masters[m] with tags := removeBit t s.masters[m].tags } := rfl
@[simp] theorem State.removeTag_control (m : MasterIx) (t : Tag) : (s.removeTag m t).control = s.control := rfl
@[simp] theorem State.removeTag_faults (m : MasterIx) (t : Tag) : (s.removeTag m t).faults = s.faults := rfl
@[simp] theorem State.removeTag_events (m : MasterIx) (t : Tag) : (s.removeTag m t).events = s.events := rfl
@[simp] theorem State.removeTag_mgmt (m : MasterIx) (t : Tag) : (s.removeTag m t).mgmt = s.mgmt := rfl
@[simp] theorem State.removeTag_pending (m : MasterIx) (t : Tag) : (s.removeTag m t).pending = s.pending := rfl

@[simp] theorem State.wake_regionMap (w : Wake) : (s.wake w).regionMap = s.regionMap := rfl
@[simp] theorem State.wake_upstream (w : Wake) :
    (s.wake w).upstream = { s.upstream with offerDue := s.upstream.offerDue || s.upstream.headWait.wokenBy w } := rfl
@[simp] theorem State.wake_buffer (w : Wake) : (s.wake w).buffer = s.buffer := rfl
@[simp] theorem State.wake_reads (w : Wake) : (s.wake w).reads = s.reads := rfl
@[simp] theorem State.wake_bitops (w : Wake) : (s.wake w).bitops = s.bitops := rfl
@[simp] theorem State.wake_opList (w : Wake) : (s.wake w).opList = s.opList := rfl
@[simp] theorem State.wake_lanes (w : Wake) : (s.wake w).lanes = s.lanes := rfl
@[simp] theorem State.wake_port (w : Wake) : (s.wake w).port = s.port := rfl
@[simp] theorem State.wake_scrub (w : Wake) : (s.wake w).scrub = s.scrub := rfl
@[simp] theorem State.wake_masters (w : Wake) : (s.wake w).masters = s.masters := rfl
@[simp] theorem State.wake_control (w : Wake) : (s.wake w).control = s.control := rfl
@[simp] theorem State.wake_faults (w : Wake) : (s.wake w).faults = s.faults := rfl
@[simp] theorem State.wake_events (w : Wake) : (s.wake w).events = s.events := rfl
@[simp] theorem State.wake_mgmt (w : Wake) : (s.wake w).mgmt = s.mgmt := rfl
@[simp] theorem State.wake_pending (w : Wake) : (s.wake w).pending = s.pending := rfl

@[simp] theorem State.offerFresh_regionMap : (s.offerFresh).regionMap = s.regionMap := rfl
@[simp] theorem State.offerFresh_upstream :
    (s.offerFresh).upstream = { s.upstream with offerDue := !s.upstream.intake.isEmpty } := rfl
@[simp] theorem State.offerFresh_buffer : (s.offerFresh).buffer = s.buffer := rfl
@[simp] theorem State.offerFresh_reads : (s.offerFresh).reads = s.reads := rfl
@[simp] theorem State.offerFresh_bitops : (s.offerFresh).bitops = s.bitops := rfl
@[simp] theorem State.offerFresh_opList : (s.offerFresh).opList = s.opList := rfl
@[simp] theorem State.offerFresh_lanes : (s.offerFresh).lanes = s.lanes := rfl
@[simp] theorem State.offerFresh_port : (s.offerFresh).port = s.port := rfl
@[simp] theorem State.offerFresh_scrub : (s.offerFresh).scrub = s.scrub := rfl
@[simp] theorem State.offerFresh_masters : (s.offerFresh).masters = s.masters := rfl
@[simp] theorem State.offerFresh_control : (s.offerFresh).control = s.control := rfl
@[simp] theorem State.offerFresh_faults : (s.offerFresh).faults = s.faults := rfl
@[simp] theorem State.offerFresh_events : (s.offerFresh).events = s.events := rfl
@[simp] theorem State.offerFresh_mgmt : (s.offerFresh).mgmt = s.mgmt := rfl
@[simp] theorem State.offerFresh_pending : (s.offerFresh).pending = s.pending := rfl

@[simp] theorem State.headWaits_regionMap (w : HeadWait) : (s.headWaits w).regionMap = s.regionMap := rfl
@[simp] theorem State.headWaits_upstream (w : HeadWait) :
    (s.headWaits w).upstream = { s.upstream with headWait := w, offerDue := false } := rfl
@[simp] theorem State.headWaits_buffer (w : HeadWait) : (s.headWaits w).buffer = s.buffer := rfl
@[simp] theorem State.headWaits_reads (w : HeadWait) : (s.headWaits w).reads = s.reads := rfl
@[simp] theorem State.headWaits_bitops (w : HeadWait) : (s.headWaits w).bitops = s.bitops := rfl
@[simp] theorem State.headWaits_opList (w : HeadWait) : (s.headWaits w).opList = s.opList := rfl
@[simp] theorem State.headWaits_lanes (w : HeadWait) : (s.headWaits w).lanes = s.lanes := rfl
@[simp] theorem State.headWaits_port (w : HeadWait) : (s.headWaits w).port = s.port := rfl
@[simp] theorem State.headWaits_scrub (w : HeadWait) : (s.headWaits w).scrub = s.scrub := rfl
@[simp] theorem State.headWaits_masters (w : HeadWait) : (s.headWaits w).masters = s.masters := rfl
@[simp] theorem State.headWaits_control (w : HeadWait) : (s.headWaits w).control = s.control := rfl
@[simp] theorem State.headWaits_faults (w : HeadWait) : (s.headWaits w).faults = s.faults := rfl
@[simp] theorem State.headWaits_events (w : HeadWait) : (s.headWaits w).events = s.events := rfl
@[simp] theorem State.headWaits_mgmt (w : HeadWait) : (s.headWaits w).mgmt = s.mgmt := rfl
@[simp] theorem State.headWaits_pending (w : HeadWait) : (s.headWaits w).pending = s.pending := rfl

@[simp] theorem State.popHead_regionMap : (s.popHead).regionMap = s.regionMap := rfl
@[simp] theorem State.popHead_upstream :
    (s.popHead).upstream = { s.upstream with intake := s.upstream.intake.tail, headWait := .none, offerDue := !s.upstream.intake.tail.isEmpty } := rfl
@[simp] theorem State.popHead_buffer : (s.popHead).buffer = s.buffer := rfl
@[simp] theorem State.popHead_reads : (s.popHead).reads = s.reads := rfl
@[simp] theorem State.popHead_bitops : (s.popHead).bitops = s.bitops := rfl
@[simp] theorem State.popHead_opList : (s.popHead).opList = s.opList := rfl
@[simp] theorem State.popHead_lanes : (s.popHead).lanes = s.lanes := rfl
@[simp] theorem State.popHead_port : (s.popHead).port = s.port := rfl
@[simp] theorem State.popHead_scrub : (s.popHead).scrub = s.scrub := rfl
@[simp] theorem State.popHead_masters : (s.popHead).masters = s.masters := rfl
@[simp] theorem State.popHead_control : (s.popHead).control = s.control := rfl
@[simp] theorem State.popHead_faults : (s.popHead).faults = s.faults := rfl
@[simp] theorem State.popHead_events : (s.popHead).events = s.events := rfl
@[simp] theorem State.popHead_mgmt : (s.popHead).mgmt = s.mgmt := rfl
@[simp] theorem State.popHead_pending : (s.popHead).pending = s.pending := rfl

@[simp] theorem State.placeResponse_regionMap (r : Response) : (s.placeResponse r).regionMap = s.regionMap := rfl
@[simp] theorem State.placeResponse_upstream (r : Response) :
    (s.placeResponse r).upstream = { s.upstream with responses := s.upstream.responses ++ [r] } := rfl
@[simp] theorem State.placeResponse_buffer (r : Response) : (s.placeResponse r).buffer = s.buffer := rfl
@[simp] theorem State.placeResponse_reads (r : Response) : (s.placeResponse r).reads = s.reads := rfl
@[simp] theorem State.placeResponse_bitops (r : Response) : (s.placeResponse r).bitops = s.bitops := rfl
@[simp] theorem State.placeResponse_opList (r : Response) : (s.placeResponse r).opList = s.opList := rfl
@[simp] theorem State.placeResponse_lanes (r : Response) : (s.placeResponse r).lanes = s.lanes := rfl
@[simp] theorem State.placeResponse_port (r : Response) : (s.placeResponse r).port = s.port := rfl
@[simp] theorem State.placeResponse_scrub (r : Response) : (s.placeResponse r).scrub = s.scrub := rfl
@[simp] theorem State.placeResponse_masters (r : Response) : (s.placeResponse r).masters = s.masters := rfl
@[simp] theorem State.placeResponse_control (r : Response) : (s.placeResponse r).control = s.control := rfl
@[simp] theorem State.placeResponse_faults (r : Response) : (s.placeResponse r).faults = s.faults := rfl
@[simp] theorem State.placeResponse_events (r : Response) : (s.placeResponse r).events = s.events := rfl
@[simp] theorem State.placeResponse_mgmt (r : Response) : (s.placeResponse r).mgmt = s.mgmt := rfl
@[simp] theorem State.placeResponse_pending (r : Response) : (s.placeResponse r).pending = s.pending := rfl

@[simp] theorem State.arrive_regionMap (r : Request) : (s.arrive r).regionMap = s.regionMap := rfl
@[simp] theorem State.arrive_upstream (r : Request) :
    (s.arrive r).upstream = { s.upstream with intake := s.upstream.intake ++ [r], offerDue := s.upstream.offerDue || s.upstream.intake.isEmpty } := rfl
@[simp] theorem State.arrive_buffer (r : Request) : (s.arrive r).buffer = s.buffer := rfl
@[simp] theorem State.arrive_reads (r : Request) : (s.arrive r).reads = s.reads := rfl
@[simp] theorem State.arrive_bitops (r : Request) : (s.arrive r).bitops = s.bitops := rfl
@[simp] theorem State.arrive_opList (r : Request) : (s.arrive r).opList = s.opList := rfl
@[simp] theorem State.arrive_lanes (r : Request) : (s.arrive r).lanes = s.lanes := rfl
@[simp] theorem State.arrive_port (r : Request) : (s.arrive r).port = s.port := rfl
@[simp] theorem State.arrive_scrub (r : Request) : (s.arrive r).scrub = s.scrub := rfl
@[simp] theorem State.arrive_masters (r : Request) : (s.arrive r).masters = s.masters := rfl
@[simp] theorem State.arrive_control (r : Request) : (s.arrive r).control = s.control := rfl
@[simp] theorem State.arrive_faults (r : Request) : (s.arrive r).faults = s.faults := rfl
@[simp] theorem State.arrive_events (r : Request) : (s.arrive r).events = s.events := rfl
@[simp] theorem State.arrive_mgmt (r : Request) : (s.arrive r).mgmt = s.mgmt := rfl
@[simp] theorem State.arrive_pending (r : Request) : (s.arrive r).pending = s.pending := rfl

@[simp] theorem State.endEvent_regionMap : (s.endEvent).regionMap = s.regionMap := rfl
@[simp] theorem State.endEvent_upstream : (s.endEvent).upstream = { s.upstream with offerDue := false } := rfl
@[simp] theorem State.endEvent_buffer : (s.endEvent).buffer = s.buffer := rfl
@[simp] theorem State.endEvent_reads : (s.endEvent).reads = s.reads := rfl
@[simp] theorem State.endEvent_bitops : (s.endEvent).bitops = s.bitops := rfl
@[simp] theorem State.endEvent_opList : (s.endEvent).opList = s.opList := rfl
@[simp] theorem State.endEvent_lanes : (s.endEvent).lanes = s.lanes := rfl
@[simp] theorem State.endEvent_port : (s.endEvent).port = s.port := rfl
@[simp] theorem State.endEvent_scrub : (s.endEvent).scrub = s.scrub := rfl
@[simp] theorem State.endEvent_masters : (s.endEvent).masters = s.masters := rfl
@[simp] theorem State.endEvent_control : (s.endEvent).control = s.control := rfl
@[simp] theorem State.endEvent_faults : (s.endEvent).faults = s.faults := rfl
@[simp] theorem State.endEvent_events : (s.endEvent).events = s.events := rfl
@[simp] theorem State.endEvent_mgmt : (s.endEvent).mgmt = s.mgmt := rfl
@[simp] theorem State.endEvent_pending : (s.endEvent).pending = s.pending := rfl

@[simp] theorem State.busRelease_regionMap : (s.busRelease).regionMap = s.regionMap := rfl
@[simp] theorem State.busRelease_upstream : (s.busRelease).upstream = { s.upstream with busrst := false } := rfl
@[simp] theorem State.busRelease_buffer : (s.busRelease).buffer = s.buffer := rfl
@[simp] theorem State.busRelease_reads : (s.busRelease).reads = s.reads := rfl
@[simp] theorem State.busRelease_bitops : (s.busRelease).bitops = s.bitops := rfl
@[simp] theorem State.busRelease_opList : (s.busRelease).opList = s.opList := rfl
@[simp] theorem State.busRelease_lanes : (s.busRelease).lanes = s.lanes := rfl
@[simp] theorem State.busRelease_port : (s.busRelease).port = s.port := rfl
@[simp] theorem State.busRelease_scrub : (s.busRelease).scrub = s.scrub := rfl
@[simp] theorem State.busRelease_masters : (s.busRelease).masters = s.masters := rfl
@[simp] theorem State.busRelease_control : (s.busRelease).control = s.control := rfl
@[simp] theorem State.busRelease_faults : (s.busRelease).faults = s.faults := rfl
@[simp] theorem State.busRelease_events : (s.busRelease).events = s.events := rfl
@[simp] theorem State.busRelease_mgmt : (s.busRelease).mgmt = s.mgmt := rfl
@[simp] theorem State.busRelease_pending : (s.busRelease).pending = s.pending := rfl

@[simp] theorem State.appendOp_regionMap (w : Work) (L : Nat) : (s.appendOp w L).regionMap = s.regionMap := rfl
@[simp] theorem State.appendOp_upstream (w : Work) (L : Nat) : (s.appendOp w L).upstream = s.upstream := rfl
@[simp] theorem State.appendOp_buffer (w : Work) (L : Nat) : (s.appendOp w L).buffer = s.buffer := rfl
@[simp] theorem State.appendOp_reads (w : Work) (L : Nat) : (s.appendOp w L).reads = s.reads := rfl
@[simp] theorem State.appendOp_bitops (w : Work) (L : Nat) : (s.appendOp w L).bitops = s.bitops := rfl
@[simp] theorem State.appendOp_opList (w : Work) (L : Nat) :
    (s.appendOp w L).opList = { ops := s.opList.ops ++ [⟨w, L, s.opList.counter, .queued⟩], counter := s.opList.counter + 1 } := rfl
@[simp] theorem State.appendOp_lanes (w : Work) (L : Nat) : (s.appendOp w L).lanes = s.lanes := rfl
@[simp] theorem State.appendOp_port (w : Work) (L : Nat) : (s.appendOp w L).port = s.port := rfl
@[simp] theorem State.appendOp_scrub (w : Work) (L : Nat) : (s.appendOp w L).scrub = s.scrub := rfl
@[simp] theorem State.appendOp_masters (w : Work) (L : Nat) : (s.appendOp w L).masters = s.masters := rfl
@[simp] theorem State.appendOp_control (w : Work) (L : Nat) : (s.appendOp w L).control = s.control := rfl
@[simp] theorem State.appendOp_faults (w : Work) (L : Nat) : (s.appendOp w L).faults = s.faults := rfl
@[simp] theorem State.appendOp_events (w : Work) (L : Nat) : (s.appendOp w L).events = s.events := rfl
@[simp] theorem State.appendOp_mgmt (w : Work) (L : Nat) : (s.appendOp w L).mgmt = s.mgmt := rfl
@[simp] theorem State.appendOp_pending (w : Work) (L : Nat) : (s.appendOp w L).pending = s.pending := rfl

@[simp] theorem State.keepOps_regionMap (p : Operation → Bool) : (s.keepOps p).regionMap = s.regionMap := rfl
@[simp] theorem State.keepOps_upstream (p : Operation → Bool) : (s.keepOps p).upstream = s.upstream := rfl
@[simp] theorem State.keepOps_buffer (p : Operation → Bool) : (s.keepOps p).buffer = s.buffer := rfl
@[simp] theorem State.keepOps_reads (p : Operation → Bool) : (s.keepOps p).reads = s.reads := rfl
@[simp] theorem State.keepOps_bitops (p : Operation → Bool) : (s.keepOps p).bitops = s.bitops := rfl
@[simp] theorem State.keepOps_opList (p : Operation → Bool) :
    (s.keepOps p).opList = { s.opList with ops := s.opList.ops.filter p } := rfl
@[simp] theorem State.keepOps_lanes (p : Operation → Bool) : (s.keepOps p).lanes = s.lanes := rfl
@[simp] theorem State.keepOps_port (p : Operation → Bool) : (s.keepOps p).port = s.port := rfl
@[simp] theorem State.keepOps_scrub (p : Operation → Bool) : (s.keepOps p).scrub = s.scrub := rfl
@[simp] theorem State.keepOps_masters (p : Operation → Bool) : (s.keepOps p).masters = s.masters := rfl
@[simp] theorem State.keepOps_control (p : Operation → Bool) : (s.keepOps p).control = s.control := rfl
@[simp] theorem State.keepOps_faults (p : Operation → Bool) : (s.keepOps p).faults = s.faults := rfl
@[simp] theorem State.keepOps_events (p : Operation → Bool) : (s.keepOps p).events = s.events := rfl
@[simp] theorem State.keepOps_mgmt (p : Operation → Bool) : (s.keepOps p).mgmt = s.mgmt := rfl
@[simp] theorem State.keepOps_pending (p : Operation → Bool) : (s.keepOps p).pending = s.pending := rfl

@[simp] theorem State.removeLaneOp_regionMap (k : LaneIx) : (s.removeLaneOp k).regionMap = s.regionMap := rfl
@[simp] theorem State.removeLaneOp_upstream (k : LaneIx) : (s.removeLaneOp k).upstream = s.upstream := rfl
@[simp] theorem State.removeLaneOp_buffer (k : LaneIx) : (s.removeLaneOp k).buffer = s.buffer := rfl
@[simp] theorem State.removeLaneOp_reads (k : LaneIx) : (s.removeLaneOp k).reads = s.reads := rfl
@[simp] theorem State.removeLaneOp_bitops (k : LaneIx) : (s.removeLaneOp k).bitops = s.bitops := rfl
@[simp] theorem State.removeLaneOp_opList (k : LaneIx) :
    (s.removeLaneOp k).opList = { s.opList with ops := s.opList.ops.filter fun o => o.phase != .inFlight k } := rfl
@[simp] theorem State.removeLaneOp_lanes (k : LaneIx) : (s.removeLaneOp k).lanes = s.lanes := rfl
@[simp] theorem State.removeLaneOp_port (k : LaneIx) : (s.removeLaneOp k).port = s.port := rfl
@[simp] theorem State.removeLaneOp_scrub (k : LaneIx) : (s.removeLaneOp k).scrub = s.scrub := rfl
@[simp] theorem State.removeLaneOp_masters (k : LaneIx) : (s.removeLaneOp k).masters = s.masters := rfl
@[simp] theorem State.removeLaneOp_control (k : LaneIx) : (s.removeLaneOp k).control = s.control := rfl
@[simp] theorem State.removeLaneOp_faults (k : LaneIx) : (s.removeLaneOp k).faults = s.faults := rfl
@[simp] theorem State.removeLaneOp_events (k : LaneIx) : (s.removeLaneOp k).events = s.events := rfl
@[simp] theorem State.removeLaneOp_mgmt (k : LaneIx) : (s.removeLaneOp k).mgmt = s.mgmt := rfl
@[simp] theorem State.removeLaneOp_pending (k : LaneIx) : (s.removeLaneOp k).pending = s.pending := rfl

@[simp] theorem State.setLane_regionMap (k : LaneIx) (l : Lane) : (s.setLane k l).regionMap = s.regionMap := rfl
@[simp] theorem State.setLane_upstream (k : LaneIx) (l : Lane) : (s.setLane k l).upstream = s.upstream := rfl
@[simp] theorem State.setLane_buffer (k : LaneIx) (l : Lane) : (s.setLane k l).buffer = s.buffer := rfl
@[simp] theorem State.setLane_reads (k : LaneIx) (l : Lane) : (s.setLane k l).reads = s.reads := rfl
@[simp] theorem State.setLane_bitops (k : LaneIx) (l : Lane) : (s.setLane k l).bitops = s.bitops := rfl
@[simp] theorem State.setLane_opList (k : LaneIx) (l : Lane) : (s.setLane k l).opList = s.opList := rfl
@[simp] theorem State.setLane_lanes (k : LaneIx) (l : Lane) : (s.setLane k l).lanes = s.lanes.set k l := rfl
@[simp] theorem State.setLane_port (k : LaneIx) (l : Lane) : (s.setLane k l).port = s.port := rfl
@[simp] theorem State.setLane_scrub (k : LaneIx) (l : Lane) : (s.setLane k l).scrub = s.scrub := rfl
@[simp] theorem State.setLane_masters (k : LaneIx) (l : Lane) : (s.setLane k l).masters = s.masters := rfl
@[simp] theorem State.setLane_control (k : LaneIx) (l : Lane) : (s.setLane k l).control = s.control := rfl
@[simp] theorem State.setLane_faults (k : LaneIx) (l : Lane) : (s.setLane k l).faults = s.faults := rfl
@[simp] theorem State.setLane_events (k : LaneIx) (l : Lane) : (s.setLane k l).events = s.events := rfl
@[simp] theorem State.setLane_mgmt (k : LaneIx) (l : Lane) : (s.setLane k l).mgmt = s.mgmt := rfl
@[simp] theorem State.setLane_pending (k : LaneIx) (l : Lane) : (s.setLane k l).pending = s.pending := rfl

@[simp] theorem State.handOver_regionMap (k : LaneIx) (c : ArrayCmd) (L : Nat) :
    (s.handOver k c L).regionMap = s.regionMap := rfl
@[simp] theorem State.handOver_upstream (k : LaneIx) (c : ArrayCmd) (L : Nat) :
    (s.handOver k c L).upstream = s.upstream := rfl
@[simp] theorem State.handOver_buffer (k : LaneIx) (c : ArrayCmd) (L : Nat) :
    (s.handOver k c L).buffer = s.buffer := rfl
@[simp] theorem State.handOver_reads (k : LaneIx) (c : ArrayCmd) (L : Nat) : (s.handOver k c L).reads = s.reads := rfl
@[simp] theorem State.handOver_bitops (k : LaneIx) (c : ArrayCmd) (L : Nat) :
    (s.handOver k c L).bitops = s.bitops := rfl
@[simp] theorem State.handOver_opList (k : LaneIx) (c : ArrayCmd) (L : Nat) :
    (s.handOver k c L).opList = s.opList := rfl
@[simp] theorem State.handOver_lanes (k : LaneIx) (c : ArrayCmd) (L : Nat) :
    (s.handOver k c L).lanes = s.lanes.set k (.busy c.waitStep) := rfl
@[simp] theorem State.handOver_port (k : LaneIx) (c : ArrayCmd) (L : Nat) :
    (s.handOver k c L).port = { s.port with queue := s.port.queue ++ [⟨k, c, L⟩] } := rfl
@[simp] theorem State.handOver_scrub (k : LaneIx) (c : ArrayCmd) (L : Nat) : (s.handOver k c L).scrub = s.scrub := rfl
@[simp] theorem State.handOver_masters (k : LaneIx) (c : ArrayCmd) (L : Nat) :
    (s.handOver k c L).masters = s.masters := rfl
@[simp] theorem State.handOver_control (k : LaneIx) (c : ArrayCmd) (L : Nat) :
    (s.handOver k c L).control = s.control := rfl
@[simp] theorem State.handOver_faults (k : LaneIx) (c : ArrayCmd) (L : Nat) :
    (s.handOver k c L).faults = s.faults := rfl
@[simp] theorem State.handOver_events (k : LaneIx) (c : ArrayCmd) (L : Nat) :
    (s.handOver k c L).events = s.events := rfl
@[simp] theorem State.handOver_mgmt (k : LaneIx) (c : ArrayCmd) (L : Nat) : (s.handOver k c L).mgmt = s.mgmt := rfl
@[simp] theorem State.handOver_pending (k : LaneIx) (c : ArrayCmd) (L : Nat) :
    (s.handOver k c L).pending = s.pending := rfl

@[simp] theorem State.setPort_regionMap (c : PortCondition) : (s.setPort c).regionMap = s.regionMap := rfl
@[simp] theorem State.setPort_upstream (c : PortCondition) : (s.setPort c).upstream = s.upstream := rfl
@[simp] theorem State.setPort_buffer (c : PortCondition) : (s.setPort c).buffer = s.buffer := rfl
@[simp] theorem State.setPort_reads (c : PortCondition) : (s.setPort c).reads = s.reads := rfl
@[simp] theorem State.setPort_bitops (c : PortCondition) : (s.setPort c).bitops = s.bitops := rfl
@[simp] theorem State.setPort_opList (c : PortCondition) : (s.setPort c).opList = s.opList := rfl
@[simp] theorem State.setPort_lanes (c : PortCondition) : (s.setPort c).lanes = s.lanes := rfl
@[simp] theorem State.setPort_port (c : PortCondition) :
    (s.setPort c).port = { s.port with condition := c, abortLine := c.aborts } := rfl
@[simp] theorem State.setPort_scrub (c : PortCondition) : (s.setPort c).scrub = s.scrub := rfl
@[simp] theorem State.setPort_masters (c : PortCondition) : (s.setPort c).masters = s.masters := rfl
@[simp] theorem State.setPort_control (c : PortCondition) : (s.setPort c).control = s.control := rfl
@[simp] theorem State.setPort_faults (c : PortCondition) : (s.setPort c).faults = s.faults := rfl
@[simp] theorem State.setPort_events (c : PortCondition) : (s.setPort c).events = s.events := rfl
@[simp] theorem State.setPort_mgmt (c : PortCondition) : (s.setPort c).mgmt = s.mgmt := rfl
@[simp] theorem State.setPort_pending (c : PortCondition) : (s.setPort c).pending = s.pending := rfl

@[simp] theorem State.setBridge_regionMap (b : BridgeState) : (s.setBridge b).regionMap = s.regionMap := rfl
@[simp] theorem State.setBridge_upstream (b : BridgeState) : (s.setBridge b).upstream = s.upstream := rfl
@[simp] theorem State.setBridge_buffer (b : BridgeState) : (s.setBridge b).buffer = s.buffer := rfl
@[simp] theorem State.setBridge_reads (b : BridgeState) : (s.setBridge b).reads = s.reads := rfl
@[simp] theorem State.setBridge_bitops (b : BridgeState) : (s.setBridge b).bitops = s.bitops := rfl
@[simp] theorem State.setBridge_opList (b : BridgeState) : (s.setBridge b).opList = s.opList := rfl
@[simp] theorem State.setBridge_lanes (b : BridgeState) : (s.setBridge b).lanes = s.lanes := rfl
@[simp] theorem State.setBridge_port (b : BridgeState) : (s.setBridge b).port = s.port := rfl
@[simp] theorem State.setBridge_scrub (b : BridgeState) : (s.setBridge b).scrub = s.scrub := rfl
@[simp] theorem State.setBridge_masters (b : BridgeState) : (s.setBridge b).masters = s.masters := rfl
@[simp] theorem State.setBridge_control (b : BridgeState) :
    (s.setBridge b).control = { s.control with bridge := b } := rfl
@[simp] theorem State.setBridge_faults (b : BridgeState) : (s.setBridge b).faults = s.faults := rfl
@[simp] theorem State.setBridge_events (b : BridgeState) : (s.setBridge b).events = s.events := rfl
@[simp] theorem State.setBridge_mgmt (b : BridgeState) : (s.setBridge b).mgmt = s.mgmt := rfl
@[simp] theorem State.setBridge_pending (b : BridgeState) : (s.setBridge b).pending = s.pending := rfl

@[simp] theorem State.setEntry_regionMap (e : EntryIx) (x : Entry) : (s.setEntry e x).regionMap = s.regionMap := rfl
@[simp] theorem State.setEntry_upstream (e : EntryIx) (x : Entry) : (s.setEntry e x).upstream = s.upstream := rfl
@[simp] theorem State.setEntry_buffer (e : EntryIx) (x : Entry) :
    (s.setEntry e x).buffer = { s.buffer with entries := s.buffer.entries.set e x } := rfl
@[simp] theorem State.setEntry_reads (e : EntryIx) (x : Entry) : (s.setEntry e x).reads = s.reads := rfl
@[simp] theorem State.setEntry_bitops (e : EntryIx) (x : Entry) : (s.setEntry e x).bitops = s.bitops := rfl
@[simp] theorem State.setEntry_opList (e : EntryIx) (x : Entry) : (s.setEntry e x).opList = s.opList := rfl
@[simp] theorem State.setEntry_lanes (e : EntryIx) (x : Entry) : (s.setEntry e x).lanes = s.lanes := rfl
@[simp] theorem State.setEntry_port (e : EntryIx) (x : Entry) : (s.setEntry e x).port = s.port := rfl
@[simp] theorem State.setEntry_scrub (e : EntryIx) (x : Entry) : (s.setEntry e x).scrub = s.scrub := rfl
@[simp] theorem State.setEntry_masters (e : EntryIx) (x : Entry) : (s.setEntry e x).masters = s.masters := rfl
@[simp] theorem State.setEntry_control (e : EntryIx) (x : Entry) : (s.setEntry e x).control = s.control := rfl
@[simp] theorem State.setEntry_faults (e : EntryIx) (x : Entry) : (s.setEntry e x).faults = s.faults := rfl
@[simp] theorem State.setEntry_events (e : EntryIx) (x : Entry) : (s.setEntry e x).events = s.events := rfl
@[simp] theorem State.setEntry_mgmt (e : EntryIx) (x : Entry) : (s.setEntry e x).mgmt = s.mgmt := rfl
@[simp] theorem State.setEntry_pending (e : EntryIx) (x : Entry) : (s.setEntry e x).pending = s.pending := rfl

@[simp] theorem State.leaveOpenOrder_regionMap (e : EntryIx) : (s.leaveOpenOrder e).regionMap = s.regionMap := rfl
@[simp] theorem State.leaveOpenOrder_upstream (e : EntryIx) : (s.leaveOpenOrder e).upstream = s.upstream := rfl
@[simp] theorem State.leaveOpenOrder_buffer (e : EntryIx) :
    (s.leaveOpenOrder e).buffer = { s.buffer with openOrder := s.buffer.openOrder.filter (· != e) } := rfl
@[simp] theorem State.leaveOpenOrder_reads (e : EntryIx) : (s.leaveOpenOrder e).reads = s.reads := rfl
@[simp] theorem State.leaveOpenOrder_bitops (e : EntryIx) : (s.leaveOpenOrder e).bitops = s.bitops := rfl
@[simp] theorem State.leaveOpenOrder_opList (e : EntryIx) : (s.leaveOpenOrder e).opList = s.opList := rfl
@[simp] theorem State.leaveOpenOrder_lanes (e : EntryIx) : (s.leaveOpenOrder e).lanes = s.lanes := rfl
@[simp] theorem State.leaveOpenOrder_port (e : EntryIx) : (s.leaveOpenOrder e).port = s.port := rfl
@[simp] theorem State.leaveOpenOrder_scrub (e : EntryIx) : (s.leaveOpenOrder e).scrub = s.scrub := rfl
@[simp] theorem State.leaveOpenOrder_masters (e : EntryIx) : (s.leaveOpenOrder e).masters = s.masters := rfl
@[simp] theorem State.leaveOpenOrder_control (e : EntryIx) : (s.leaveOpenOrder e).control = s.control := rfl
@[simp] theorem State.leaveOpenOrder_faults (e : EntryIx) : (s.leaveOpenOrder e).faults = s.faults := rfl
@[simp] theorem State.leaveOpenOrder_events (e : EntryIx) : (s.leaveOpenOrder e).events = s.events := rfl
@[simp] theorem State.leaveOpenOrder_mgmt (e : EntryIx) : (s.leaveOpenOrder e).mgmt = s.mgmt := rfl
@[simp] theorem State.leaveOpenOrder_pending (e : EntryIx) : (s.leaveOpenOrder e).pending = s.pending := rfl

@[simp] theorem State.storeInto_regionMap (e : EntryIx) (p : Nat) (bytes : List Byte) (m : MasterIx) :
    (s.storeInto e p bytes m).regionMap = s.regionMap := rfl
@[simp] theorem State.storeInto_upstream (e : EntryIx) (p : Nat) (bytes : List Byte) (m : MasterIx) :
    (s.storeInto e p bytes m).upstream = s.upstream := rfl
@[simp] theorem State.storeInto_buffer (e : EntryIx) (p : Nat) (bytes : List Byte) (m : MasterIx) :
    (s.storeInto e p bytes m).buffer = { s.buffer with entries := s.buffer.entries.set e (s.buffer.entries[e].store p bytes m) } := rfl
@[simp] theorem State.storeInto_reads (e : EntryIx) (p : Nat) (bytes : List Byte) (m : MasterIx) :
    (s.storeInto e p bytes m).reads = s.reads := rfl
@[simp] theorem State.storeInto_bitops (e : EntryIx) (p : Nat) (bytes : List Byte) (m : MasterIx) :
    (s.storeInto e p bytes m).bitops = s.bitops := rfl
@[simp] theorem State.storeInto_opList (e : EntryIx) (p : Nat) (bytes : List Byte) (m : MasterIx) :
    (s.storeInto e p bytes m).opList = s.opList := rfl
@[simp] theorem State.storeInto_lanes (e : EntryIx) (p : Nat) (bytes : List Byte) (m : MasterIx) :
    (s.storeInto e p bytes m).lanes = s.lanes := rfl
@[simp] theorem State.storeInto_port (e : EntryIx) (p : Nat) (bytes : List Byte) (m : MasterIx) :
    (s.storeInto e p bytes m).port = s.port := rfl
@[simp] theorem State.storeInto_scrub (e : EntryIx) (p : Nat) (bytes : List Byte) (m : MasterIx) :
    (s.storeInto e p bytes m).scrub = s.scrub := rfl
@[simp] theorem State.storeInto_masters (e : EntryIx) (p : Nat) (bytes : List Byte) (m : MasterIx) :
    (s.storeInto e p bytes m).masters = s.masters := rfl
@[simp] theorem State.storeInto_control (e : EntryIx) (p : Nat) (bytes : List Byte) (m : MasterIx) :
    (s.storeInto e p bytes m).control = s.control := rfl
@[simp] theorem State.storeInto_faults (e : EntryIx) (p : Nat) (bytes : List Byte) (m : MasterIx) :
    (s.storeInto e p bytes m).faults = s.faults := rfl
@[simp] theorem State.storeInto_events (e : EntryIx) (p : Nat) (bytes : List Byte) (m : MasterIx) :
    (s.storeInto e p bytes m).events = s.events := rfl
@[simp] theorem State.storeInto_mgmt (e : EntryIx) (p : Nat) (bytes : List Byte) (m : MasterIx) :
    (s.storeInto e p bytes m).mgmt = s.mgmt := rfl
@[simp] theorem State.storeInto_pending (e : EntryIx) (p : Nat) (bytes : List Byte) (m : MasterIx) :
    (s.storeInto e p bytes m).pending = s.pending := rfl

@[simp] theorem State.setRead_regionMap (i : ReadIx) (x : ReadRec) : (s.setRead i x).regionMap = s.regionMap := rfl
@[simp] theorem State.setRead_upstream (i : ReadIx) (x : ReadRec) : (s.setRead i x).upstream = s.upstream := rfl
@[simp] theorem State.setRead_buffer (i : ReadIx) (x : ReadRec) : (s.setRead i x).buffer = s.buffer := rfl
@[simp] theorem State.setRead_reads (i : ReadIx) (x : ReadRec) : (s.setRead i x).reads = s.reads.set i x := rfl
@[simp] theorem State.setRead_bitops (i : ReadIx) (x : ReadRec) : (s.setRead i x).bitops = s.bitops := rfl
@[simp] theorem State.setRead_opList (i : ReadIx) (x : ReadRec) : (s.setRead i x).opList = s.opList := rfl
@[simp] theorem State.setRead_lanes (i : ReadIx) (x : ReadRec) : (s.setRead i x).lanes = s.lanes := rfl
@[simp] theorem State.setRead_port (i : ReadIx) (x : ReadRec) : (s.setRead i x).port = s.port := rfl
@[simp] theorem State.setRead_scrub (i : ReadIx) (x : ReadRec) : (s.setRead i x).scrub = s.scrub := rfl
@[simp] theorem State.setRead_masters (i : ReadIx) (x : ReadRec) : (s.setRead i x).masters = s.masters := rfl
@[simp] theorem State.setRead_control (i : ReadIx) (x : ReadRec) : (s.setRead i x).control = s.control := rfl
@[simp] theorem State.setRead_faults (i : ReadIx) (x : ReadRec) : (s.setRead i x).faults = s.faults := rfl
@[simp] theorem State.setRead_events (i : ReadIx) (x : ReadRec) : (s.setRead i x).events = s.events := rfl
@[simp] theorem State.setRead_mgmt (i : ReadIx) (x : ReadRec) : (s.setRead i x).mgmt = s.mgmt := rfl
@[simp] theorem State.setRead_pending (i : ReadIx) (x : ReadRec) : (s.setRead i x).pending = s.pending := rfl

@[simp] theorem State.setBit_regionMap (i : BitIx) (x : BitRec) : (s.setBit i x).regionMap = s.regionMap := rfl
@[simp] theorem State.setBit_upstream (i : BitIx) (x : BitRec) : (s.setBit i x).upstream = s.upstream := rfl
@[simp] theorem State.setBit_buffer (i : BitIx) (x : BitRec) : (s.setBit i x).buffer = s.buffer := rfl
@[simp] theorem State.setBit_reads (i : BitIx) (x : BitRec) : (s.setBit i x).reads = s.reads := rfl
@[simp] theorem State.setBit_bitops (i : BitIx) (x : BitRec) : (s.setBit i x).bitops = s.bitops.set i x := rfl
@[simp] theorem State.setBit_opList (i : BitIx) (x : BitRec) : (s.setBit i x).opList = s.opList := rfl
@[simp] theorem State.setBit_lanes (i : BitIx) (x : BitRec) : (s.setBit i x).lanes = s.lanes := rfl
@[simp] theorem State.setBit_port (i : BitIx) (x : BitRec) : (s.setBit i x).port = s.port := rfl
@[simp] theorem State.setBit_scrub (i : BitIx) (x : BitRec) : (s.setBit i x).scrub = s.scrub := rfl
@[simp] theorem State.setBit_masters (i : BitIx) (x : BitRec) : (s.setBit i x).masters = s.masters := rfl
@[simp] theorem State.setBit_control (i : BitIx) (x : BitRec) : (s.setBit i x).control = s.control := rfl
@[simp] theorem State.setBit_faults (i : BitIx) (x : BitRec) : (s.setBit i x).faults = s.faults := rfl
@[simp] theorem State.setBit_events (i : BitIx) (x : BitRec) : (s.setBit i x).events = s.events := rfl
@[simp] theorem State.setBit_mgmt (i : BitIx) (x : BitRec) : (s.setBit i x).mgmt = s.mgmt := rfl
@[simp] theorem State.setBit_pending (i : BitIx) (x : BitRec) : (s.setBit i x).pending = s.pending := rfl

@[simp] theorem State.idleScrubTimer_regionMap : (s.idleScrubTimer).regionMap = s.regionMap := rfl
@[simp] theorem State.idleScrubTimer_upstream : (s.idleScrubTimer).upstream = s.upstream := rfl
@[simp] theorem State.idleScrubTimer_buffer : (s.idleScrubTimer).buffer = s.buffer := rfl
@[simp] theorem State.idleScrubTimer_reads : (s.idleScrubTimer).reads = s.reads := rfl
@[simp] theorem State.idleScrubTimer_bitops : (s.idleScrubTimer).bitops = s.bitops := rfl
@[simp] theorem State.idleScrubTimer_opList : (s.idleScrubTimer).opList = s.opList := rfl
@[simp] theorem State.idleScrubTimer_lanes : (s.idleScrubTimer).lanes = s.lanes := rfl
@[simp] theorem State.idleScrubTimer_port : (s.idleScrubTimer).port = s.port := rfl
@[simp] theorem State.idleScrubTimer_scrub : (s.idleScrubTimer).scrub = { s.scrub with timer := none } := rfl
@[simp] theorem State.idleScrubTimer_masters : (s.idleScrubTimer).masters = s.masters := rfl
@[simp] theorem State.idleScrubTimer_control : (s.idleScrubTimer).control = s.control := rfl
@[simp] theorem State.idleScrubTimer_faults : (s.idleScrubTimer).faults = s.faults := rfl
@[simp] theorem State.idleScrubTimer_events : (s.idleScrubTimer).events = s.events := rfl
@[simp] theorem State.idleScrubTimer_mgmt : (s.idleScrubTimer).mgmt = s.mgmt := rfl
@[simp] theorem State.idleScrubTimer_pending : (s.idleScrubTimer).pending = s.pending := rfl

@[simp] theorem State.loadScrubTimer_regionMap : (s.loadScrubTimer).regionMap = s.regionMap := rfl
@[simp] theorem State.loadScrubTimer_upstream : (s.loadScrubTimer).upstream = s.upstream := rfl
@[simp] theorem State.loadScrubTimer_buffer : (s.loadScrubTimer).buffer = s.buffer := rfl
@[simp] theorem State.loadScrubTimer_reads : (s.loadScrubTimer).reads = s.reads := rfl
@[simp] theorem State.loadScrubTimer_bitops : (s.loadScrubTimer).bitops = s.bitops := rfl
@[simp] theorem State.loadScrubTimer_opList : (s.loadScrubTimer).opList = s.opList := rfl
@[simp] theorem State.loadScrubTimer_lanes : (s.loadScrubTimer).lanes = s.lanes := rfl
@[simp] theorem State.loadScrubTimer_port : (s.loadScrubTimer).port = s.port := rfl
@[simp] theorem State.loadScrubTimer_scrub :
    (s.loadScrubTimer).scrub = { s.scrub with timer := some s.scrub.interval } := rfl
@[simp] theorem State.loadScrubTimer_masters : (s.loadScrubTimer).masters = s.masters := rfl
@[simp] theorem State.loadScrubTimer_control : (s.loadScrubTimer).control = s.control := rfl
@[simp] theorem State.loadScrubTimer_faults : (s.loadScrubTimer).faults = s.faults := rfl
@[simp] theorem State.loadScrubTimer_events : (s.loadScrubTimer).events = s.events := rfl
@[simp] theorem State.loadScrubTimer_mgmt : (s.loadScrubTimer).mgmt = s.mgmt := rfl
@[simp] theorem State.loadScrubTimer_pending : (s.loadScrubTimer).pending = s.pending := rfl

@[simp] theorem State.stopScrubber_regionMap : (s.stopScrubber).regionMap = s.regionMap := rfl
@[simp] theorem State.stopScrubber_upstream : (s.stopScrubber).upstream = s.upstream := rfl
@[simp] theorem State.stopScrubber_buffer : (s.stopScrubber).buffer = s.buffer := rfl
@[simp] theorem State.stopScrubber_reads : (s.stopScrubber).reads = s.reads := rfl
@[simp] theorem State.stopScrubber_bitops : (s.stopScrubber).bitops = s.bitops := rfl
@[simp] theorem State.stopScrubber_opList : (s.stopScrubber).opList = s.opList := rfl
@[simp] theorem State.stopScrubber_lanes : (s.stopScrubber).lanes = s.lanes := rfl
@[simp] theorem State.stopScrubber_port : (s.stopScrubber).port = s.port := rfl
@[simp] theorem State.stopScrubber_scrub :
    (s.stopScrubber).scrub = { s.scrub with running := false, timer := none } := rfl
@[simp] theorem State.stopScrubber_masters : (s.stopScrubber).masters = s.masters := rfl
@[simp] theorem State.stopScrubber_control : (s.stopScrubber).control = s.control := rfl
@[simp] theorem State.stopScrubber_faults : (s.stopScrubber).faults = s.faults := rfl
@[simp] theorem State.stopScrubber_events : (s.stopScrubber).events = s.events := rfl
@[simp] theorem State.stopScrubber_mgmt : (s.stopScrubber).mgmt = s.mgmt := rfl
@[simp] theorem State.stopScrubber_pending : (s.stopScrubber).pending = s.pending := rfl

@[simp] theorem State.enterQuiesced_regionMap : (s.enterQuiesced).regionMap = s.regionMap := rfl
@[simp] theorem State.enterQuiesced_upstream : (s.enterQuiesced).upstream = s.upstream := rfl
@[simp] theorem State.enterQuiesced_buffer : (s.enterQuiesced).buffer = s.buffer := rfl
@[simp] theorem State.enterQuiesced_reads : (s.enterQuiesced).reads = s.reads := rfl
@[simp] theorem State.enterQuiesced_bitops : (s.enterQuiesced).bitops = s.bitops := rfl
@[simp] theorem State.enterQuiesced_opList : (s.enterQuiesced).opList = s.opList := rfl
@[simp] theorem State.enterQuiesced_lanes : (s.enterQuiesced).lanes = s.lanes := rfl
@[simp] theorem State.enterQuiesced_port : (s.enterQuiesced).port = s.port := rfl
@[simp] theorem State.enterQuiesced_scrub : (s.enterQuiesced).scrub = s.scrub := rfl
@[simp] theorem State.enterQuiesced_masters : (s.enterQuiesced).masters = s.masters := rfl
@[simp] theorem State.enterQuiesced_control : (s.enterQuiesced).control = { s.control with bridge := .quiesced } := rfl
@[simp] theorem State.enterQuiesced_faults : (s.enterQuiesced).faults = s.faults := rfl
@[simp] theorem State.enterQuiesced_events : (s.enterQuiesced).events = s.events.raise .quiesced := rfl
@[simp] theorem State.enterQuiesced_mgmt : (s.enterQuiesced).mgmt = s.mgmt := rfl
@[simp] theorem State.enterQuiesced_pending : (s.enterQuiesced).pending = s.pending := rfl

@[simp] theorem State.storeMemorySize_regionMap (v : Nat) :
    (s.storeMemorySize v).regionMap = { s.regionMap with memorySize := v } := rfl
@[simp] theorem State.storeMemorySize_upstream (v : Nat) : (s.storeMemorySize v).upstream = s.upstream := rfl
@[simp] theorem State.storeMemorySize_buffer (v : Nat) : (s.storeMemorySize v).buffer = s.buffer := rfl
@[simp] theorem State.storeMemorySize_reads (v : Nat) : (s.storeMemorySize v).reads = s.reads := rfl
@[simp] theorem State.storeMemorySize_bitops (v : Nat) : (s.storeMemorySize v).bitops = s.bitops := rfl
@[simp] theorem State.storeMemorySize_opList (v : Nat) : (s.storeMemorySize v).opList = s.opList := rfl
@[simp] theorem State.storeMemorySize_lanes (v : Nat) : (s.storeMemorySize v).lanes = s.lanes := rfl
@[simp] theorem State.storeMemorySize_port (v : Nat) : (s.storeMemorySize v).port = s.port := rfl
@[simp] theorem State.storeMemorySize_scrub (v : Nat) :
    (s.storeMemorySize v).scrub = { s.scrub with position := if s.scrub.position < linesOfCode v then s.scrub.position else 0 } := rfl
@[simp] theorem State.storeMemorySize_masters (v : Nat) : (s.storeMemorySize v).masters = s.masters := rfl
@[simp] theorem State.storeMemorySize_control (v : Nat) : (s.storeMemorySize v).control = s.control := rfl
@[simp] theorem State.storeMemorySize_faults (v : Nat) : (s.storeMemorySize v).faults = s.faults := rfl
@[simp] theorem State.storeMemorySize_events (v : Nat) : (s.storeMemorySize v).events = s.events := rfl
@[simp] theorem State.storeMemorySize_mgmt (v : Nat) : (s.storeMemorySize v).mgmt = s.mgmt := rfl
@[simp] theorem State.storeMemorySize_pending (v : Nat) : (s.storeMemorySize v).pending = s.pending := rfl

@[simp] theorem State.storeRegion_regionMap (n : RegionIx) (r : Region) :
    (s.storeRegion n r).regionMap = { s.regionMap with regions := s.regionMap.regions.set n r } := rfl
@[simp] theorem State.storeRegion_upstream (n : RegionIx) (r : Region) :
    (s.storeRegion n r).upstream = s.upstream := rfl
@[simp] theorem State.storeRegion_buffer (n : RegionIx) (r : Region) : (s.storeRegion n r).buffer = s.buffer := rfl
@[simp] theorem State.storeRegion_reads (n : RegionIx) (r : Region) : (s.storeRegion n r).reads = s.reads := rfl
@[simp] theorem State.storeRegion_bitops (n : RegionIx) (r : Region) : (s.storeRegion n r).bitops = s.bitops := rfl
@[simp] theorem State.storeRegion_opList (n : RegionIx) (r : Region) : (s.storeRegion n r).opList = s.opList := rfl
@[simp] theorem State.storeRegion_lanes (n : RegionIx) (r : Region) : (s.storeRegion n r).lanes = s.lanes := rfl
@[simp] theorem State.storeRegion_port (n : RegionIx) (r : Region) : (s.storeRegion n r).port = s.port := rfl
@[simp] theorem State.storeRegion_scrub (n : RegionIx) (r : Region) : (s.storeRegion n r).scrub = s.scrub := rfl
@[simp] theorem State.storeRegion_masters (n : RegionIx) (r : Region) : (s.storeRegion n r).masters = s.masters := rfl
@[simp] theorem State.storeRegion_control (n : RegionIx) (r : Region) : (s.storeRegion n r).control = s.control := rfl
@[simp] theorem State.storeRegion_faults (n : RegionIx) (r : Region) : (s.storeRegion n r).faults = s.faults := rfl
@[simp] theorem State.storeRegion_events (n : RegionIx) (r : Region) : (s.storeRegion n r).events = s.events := rfl
@[simp] theorem State.storeRegion_mgmt (n : RegionIx) (r : Region) : (s.storeRegion n r).mgmt = s.mgmt := rfl
@[simp] theorem State.storeRegion_pending (n : RegionIx) (r : Region) : (s.storeRegion n r).pending = s.pending := rfl

@[simp] theorem State.reply_regionMap (st : MgmtStatus) (d : List Byte) : (s.reply st d).regionMap = s.regionMap := rfl
@[simp] theorem State.reply_upstream (st : MgmtStatus) (d : List Byte) : (s.reply st d).upstream = s.upstream := rfl
@[simp] theorem State.reply_buffer (st : MgmtStatus) (d : List Byte) : (s.reply st d).buffer = s.buffer := rfl
@[simp] theorem State.reply_reads (st : MgmtStatus) (d : List Byte) : (s.reply st d).reads = s.reads := rfl
@[simp] theorem State.reply_bitops (st : MgmtStatus) (d : List Byte) : (s.reply st d).bitops = s.bitops := rfl
@[simp] theorem State.reply_opList (st : MgmtStatus) (d : List Byte) : (s.reply st d).opList = s.opList := rfl
@[simp] theorem State.reply_lanes (st : MgmtStatus) (d : List Byte) : (s.reply st d).lanes = s.lanes := rfl
@[simp] theorem State.reply_port (st : MgmtStatus) (d : List Byte) : (s.reply st d).port = s.port := rfl
@[simp] theorem State.reply_scrub (st : MgmtStatus) (d : List Byte) : (s.reply st d).scrub = s.scrub := rfl
@[simp] theorem State.reply_masters (st : MgmtStatus) (d : List Byte) : (s.reply st d).masters = s.masters := rfl
@[simp] theorem State.reply_control (st : MgmtStatus) (d : List Byte) : (s.reply st d).control = s.control := rfl
@[simp] theorem State.reply_faults (st : MgmtStatus) (d : List Byte) : (s.reply st d).faults = s.faults := rfl
@[simp] theorem State.reply_events (st : MgmtStatus) (d : List Byte) : (s.reply st d).events = s.events := rfl
@[simp] theorem State.reply_mgmt (st : MgmtStatus) (d : List Byte) :
    (s.reply st d).mgmt = { s.mgmt with msel := true, condition := .reply, bytes := [], bits := [], response := responseFrame st d, fillers := Config.fillers s.mgmt.exchanges, sent := 0, exchanges := s.mgmt.exchanges + 1 } := rfl
@[simp] theorem State.reply_pending (st : MgmtStatus) (d : List Byte) : (s.reply st d).pending = s.pending := rfl

@[simp] theorem State.freeEntry_regionMap (e : EntryIx) (L : Nat) : (s.freeEntry e L).regionMap = s.regionMap := rfl
@[simp] theorem State.freeEntry_reads (e : EntryIx) (L : Nat) : (s.freeEntry e L).reads = s.reads := rfl
@[simp] theorem State.freeEntry_bitops (e : EntryIx) (L : Nat) : (s.freeEntry e L).bitops = s.bitops := rfl
@[simp] theorem State.freeEntry_opList (e : EntryIx) (L : Nat) : (s.freeEntry e L).opList = s.opList := rfl
@[simp] theorem State.freeEntry_lanes (e : EntryIx) (L : Nat) : (s.freeEntry e L).lanes = s.lanes := rfl
@[simp] theorem State.freeEntry_port (e : EntryIx) (L : Nat) : (s.freeEntry e L).port = s.port := rfl
@[simp] theorem State.freeEntry_scrub (e : EntryIx) (L : Nat) : (s.freeEntry e L).scrub = s.scrub := rfl
@[simp] theorem State.freeEntry_control (e : EntryIx) (L : Nat) : (s.freeEntry e L).control = s.control := rfl
@[simp] theorem State.freeEntry_faults (e : EntryIx) (L : Nat) : (s.freeEntry e L).faults = s.faults := rfl
@[simp] theorem State.freeEntry_events (e : EntryIx) (L : Nat) : (s.freeEntry e L).events = s.events := rfl
@[simp] theorem State.freeEntry_mgmt (e : EntryIx) (L : Nat) : (s.freeEntry e L).mgmt = s.mgmt := rfl
@[simp] theorem State.freeEntry_pending (e : EntryIx) (L : Nat) : (s.freeEntry e L).pending = s.pending := rfl

@[simp] theorem State.commit_regionMap (e : EntryIx) (L : Nat) : (s.commit e L).regionMap = s.regionMap := rfl
@[simp] theorem State.commit_reads (e : EntryIx) (L : Nat) : (s.commit e L).reads = s.reads := rfl
@[simp] theorem State.commit_bitops (e : EntryIx) (L : Nat) : (s.commit e L).bitops = s.bitops := rfl
@[simp] theorem State.commit_lanes (e : EntryIx) (L : Nat) : (s.commit e L).lanes = s.lanes := rfl
@[simp] theorem State.commit_port (e : EntryIx) (L : Nat) : (s.commit e L).port = s.port := rfl
@[simp] theorem State.commit_scrub (e : EntryIx) (L : Nat) : (s.commit e L).scrub = s.scrub := rfl
@[simp] theorem State.commit_masters (e : EntryIx) (L : Nat) : (s.commit e L).masters = s.masters := rfl
@[simp] theorem State.commit_control (e : EntryIx) (L : Nat) : (s.commit e L).control = s.control := rfl
@[simp] theorem State.commit_faults (e : EntryIx) (L : Nat) : (s.commit e L).faults = s.faults := rfl
@[simp] theorem State.commit_events (e : EntryIx) (L : Nat) : (s.commit e L).events = s.events := rfl
@[simp] theorem State.commit_mgmt (e : EntryIx) (L : Nat) : (s.commit e L).mgmt = s.mgmt := rfl
@[simp] theorem State.commit_pending (e : EntryIx) (L : Nat) : (s.commit e L).pending = s.pending := rfl

@[simp] theorem State.absorb_regionMap (e : EntryIx) (p : Nat) (bytes : List Byte) (m : MasterIx) :
    (s.absorb e p bytes m).regionMap = s.regionMap := rfl
@[simp] theorem State.absorb_upstream (e : EntryIx) (p : Nat) (bytes : List Byte) (m : MasterIx) :
    (s.absorb e p bytes m).upstream = s.upstream := rfl
@[simp] theorem State.absorb_reads (e : EntryIx) (p : Nat) (bytes : List Byte) (m : MasterIx) :
    (s.absorb e p bytes m).reads = s.reads := rfl
@[simp] theorem State.absorb_bitops (e : EntryIx) (p : Nat) (bytes : List Byte) (m : MasterIx) :
    (s.absorb e p bytes m).bitops = s.bitops := rfl
@[simp] theorem State.absorb_opList (e : EntryIx) (p : Nat) (bytes : List Byte) (m : MasterIx) :
    (s.absorb e p bytes m).opList = s.opList := rfl
@[simp] theorem State.absorb_lanes (e : EntryIx) (p : Nat) (bytes : List Byte) (m : MasterIx) :
    (s.absorb e p bytes m).lanes = s.lanes := rfl
@[simp] theorem State.absorb_port (e : EntryIx) (p : Nat) (bytes : List Byte) (m : MasterIx) :
    (s.absorb e p bytes m).port = s.port := rfl
@[simp] theorem State.absorb_scrub (e : EntryIx) (p : Nat) (bytes : List Byte) (m : MasterIx) :
    (s.absorb e p bytes m).scrub = s.scrub := rfl
@[simp] theorem State.absorb_control (e : EntryIx) (p : Nat) (bytes : List Byte) (m : MasterIx) :
    (s.absorb e p bytes m).control = s.control := rfl
@[simp] theorem State.absorb_faults (e : EntryIx) (p : Nat) (bytes : List Byte) (m : MasterIx) :
    (s.absorb e p bytes m).faults = s.faults := rfl
@[simp] theorem State.absorb_events (e : EntryIx) (p : Nat) (bytes : List Byte) (m : MasterIx) :
    (s.absorb e p bytes m).events = s.events := rfl
@[simp] theorem State.absorb_mgmt (e : EntryIx) (p : Nat) (bytes : List Byte) (m : MasterIx) :
    (s.absorb e p bytes m).mgmt = s.mgmt := rfl
@[simp] theorem State.absorb_pending (e : EntryIx) (p : Nat) (bytes : List Byte) (m : MasterIx) :
    (s.absorb e p bytes m).pending = s.pending := rfl

@[simp] theorem State.allocate_regionMap (e : EntryIx) (L p : Nat) (bytes : List Byte) (m : MasterIx) :
    (s.allocate e L p bytes m).regionMap = s.regionMap := rfl
@[simp] theorem State.allocate_reads (e : EntryIx) (L p : Nat) (bytes : List Byte) (m : MasterIx) :
    (s.allocate e L p bytes m).reads = s.reads := rfl
@[simp] theorem State.allocate_bitops (e : EntryIx) (L p : Nat) (bytes : List Byte) (m : MasterIx) :
    (s.allocate e L p bytes m).bitops = s.bitops := rfl
@[simp] theorem State.allocate_opList (e : EntryIx) (L p : Nat) (bytes : List Byte) (m : MasterIx) :
    (s.allocate e L p bytes m).opList = s.opList := rfl
@[simp] theorem State.allocate_lanes (e : EntryIx) (L p : Nat) (bytes : List Byte) (m : MasterIx) :
    (s.allocate e L p bytes m).lanes = s.lanes := rfl
@[simp] theorem State.allocate_port (e : EntryIx) (L p : Nat) (bytes : List Byte) (m : MasterIx) :
    (s.allocate e L p bytes m).port = s.port := rfl
@[simp] theorem State.allocate_scrub (e : EntryIx) (L p : Nat) (bytes : List Byte) (m : MasterIx) :
    (s.allocate e L p bytes m).scrub = s.scrub := rfl
@[simp] theorem State.allocate_masters (e : EntryIx) (L p : Nat) (bytes : List Byte) (m : MasterIx) :
    (s.allocate e L p bytes m).masters = s.masters := rfl
@[simp] theorem State.allocate_control (e : EntryIx) (L p : Nat) (bytes : List Byte) (m : MasterIx) :
    (s.allocate e L p bytes m).control = s.control := rfl
@[simp] theorem State.allocate_faults (e : EntryIx) (L p : Nat) (bytes : List Byte) (m : MasterIx) :
    (s.allocate e L p bytes m).faults = s.faults := rfl
@[simp] theorem State.allocate_events (e : EntryIx) (L p : Nat) (bytes : List Byte) (m : MasterIx) :
    (s.allocate e L p bytes m).events = s.events := rfl
@[simp] theorem State.allocate_mgmt (e : EntryIx) (L p : Nat) (bytes : List Byte) (m : MasterIx) :
    (s.allocate e L p bytes m).mgmt = s.mgmt := rfl
@[simp] theorem State.allocate_pending (e : EntryIx) (L p : Nat) (bytes : List Byte) (m : MasterIx) :
    (s.allocate e L p bytes m).pending = s.pending := rfl

@[simp] theorem State.answerBarrier_regionMap (m : MasterIx) (t : Tag) :
    (s.answerBarrier m t).regionMap = s.regionMap := rfl
@[simp] theorem State.answerBarrier_buffer (m : MasterIx) (t : Tag) : (s.answerBarrier m t).buffer = s.buffer := rfl
@[simp] theorem State.answerBarrier_reads (m : MasterIx) (t : Tag) : (s.answerBarrier m t).reads = s.reads := rfl
@[simp] theorem State.answerBarrier_bitops (m : MasterIx) (t : Tag) : (s.answerBarrier m t).bitops = s.bitops := rfl
@[simp] theorem State.answerBarrier_opList (m : MasterIx) (t : Tag) : (s.answerBarrier m t).opList = s.opList := rfl
@[simp] theorem State.answerBarrier_lanes (m : MasterIx) (t : Tag) : (s.answerBarrier m t).lanes = s.lanes := rfl
@[simp] theorem State.answerBarrier_port (m : MasterIx) (t : Tag) : (s.answerBarrier m t).port = s.port := rfl
@[simp] theorem State.answerBarrier_scrub (m : MasterIx) (t : Tag) : (s.answerBarrier m t).scrub = s.scrub := rfl
@[simp] theorem State.answerBarrier_control (m : MasterIx) (t : Tag) : (s.answerBarrier m t).control = s.control := rfl
@[simp] theorem State.answerBarrier_faults (m : MasterIx) (t : Tag) : (s.answerBarrier m t).faults = s.faults := rfl
@[simp] theorem State.answerBarrier_events (m : MasterIx) (t : Tag) : (s.answerBarrier m t).events = s.events := rfl
@[simp] theorem State.answerBarrier_mgmt (m : MasterIx) (t : Tag) : (s.answerBarrier m t).mgmt = s.mgmt := rfl
@[simp] theorem State.answerBarrier_pending (m : MasterIx) (t : Tag) : (s.answerBarrier m t).pending = s.pending := rfl

@[simp] theorem State.haltQueued_regionMap : (s.haltQueued).regionMap = s.regionMap := rfl
@[simp] theorem State.haltQueued_upstream : (s.haltQueued).upstream = s.upstream := rfl
@[simp] theorem State.haltQueued_buffer : (s.haltQueued).buffer = s.buffer := rfl
@[simp] theorem State.haltQueued_lanes : (s.haltQueued).lanes = s.lanes := rfl
@[simp] theorem State.haltQueued_port : (s.haltQueued).port = s.port := rfl
@[simp] theorem State.haltQueued_scrub : (s.haltQueued).scrub = s.scrub := rfl
@[simp] theorem State.haltQueued_masters : (s.haltQueued).masters = s.masters := rfl
@[simp] theorem State.haltQueued_control : (s.haltQueued).control = s.control := rfl
@[simp] theorem State.haltQueued_faults : (s.haltQueued).faults = s.faults := rfl
@[simp] theorem State.haltQueued_events : (s.haltQueued).events = s.events := rfl
@[simp] theorem State.haltQueued_mgmt : (s.haltQueued).mgmt = s.mgmt := rfl
@[simp] theorem State.haltQueued_pending : (s.haltQueued).pending = s.pending := rfl

@[simp] theorem State.halt_regionMap (c : HaltCause) : (s.halt c).regionMap = s.regionMap := rfl
@[simp] theorem State.halt_buffer (c : HaltCause) : (s.halt c).buffer = s.buffer := rfl
@[simp] theorem State.halt_lanes (c : HaltCause) : (s.halt c).lanes = s.lanes := rfl
@[simp] theorem State.halt_port (c : HaltCause) : (s.halt c).port = s.port := rfl
@[simp] theorem State.halt_masters (c : HaltCause) : (s.halt c).masters = s.masters := rfl
@[simp] theorem State.halt_control (c : HaltCause) : (s.halt c).control = ⟨.halted, some c⟩ := rfl
@[simp] theorem State.halt_faults (c : HaltCause) :
    (s.halt c).faults = s.faults.offer (FaultRecord.of (.halt c s.control.bridge (c.count s.port.failures))) := rfl
@[simp] theorem State.halt_mgmt (c : HaltCause) : (s.halt c).mgmt = s.mgmt := rfl
@[simp] theorem State.halt_pending (c : HaltCause) : (s.halt c).pending = s.pending := rfl

@[simp] theorem State.clear_regionMap : (s.clear).regionMap = s.regionMap := rfl
@[simp] theorem State.clear_reads : (s.clear).reads = Vector.replicate 8 .free := rfl
@[simp] theorem State.clear_bitops : (s.clear).bitops = Vector.replicate 4 .free := rfl
@[simp] theorem State.clear_opList : (s.clear).opList = ⟨[], 0⟩ := rfl
@[simp] theorem State.clear_lanes : (s.clear).lanes = Vector.replicate 4 .idle := rfl
@[simp] theorem State.clear_masters : (s.clear).masters = Vector.replicate 8 MasterCtx.reset := rfl
@[simp] theorem State.clear_control : (s.clear).control = ⟨.config, none⟩ := rfl
@[simp] theorem State.clear_faults : (s.clear).faults = s.faults := rfl
@[simp] theorem State.clear_events : (s.clear).events = s.events.restart := rfl
@[simp] theorem State.clear_mgmt : (s.clear).mgmt = s.mgmt := rfl
@[simp] theorem State.clear_pending : (s.clear).pending = s.pending := rfl

@[simp] theorem State.busReset_regionMap : (s.busReset).regionMap = s.regionMap := rfl
@[simp] theorem State.busReset_upstream : (s.busReset).upstream = ⟨[], .none, false, [], true⟩ := rfl
@[simp] theorem State.busReset_buffer : (s.busReset).buffer = s.buffer := rfl
@[simp] theorem State.busReset_lanes : (s.busReset).lanes = s.lanes := rfl
@[simp] theorem State.busReset_port : (s.busReset).port = s.port := rfl
@[simp] theorem State.busReset_scrub : (s.busReset).scrub = s.scrub := rfl
@[simp] theorem State.busReset_masters : (s.busReset).masters = Vector.replicate 8 MasterCtx.reset := rfl
@[simp] theorem State.busReset_control : (s.busReset).control = s.control := rfl
@[simp] theorem State.busReset_faults : (s.busReset).faults = s.faults := rfl
@[simp] theorem State.busReset_events : (s.busReset).events = s.events.raise .busReset := rfl
@[simp] theorem State.busReset_mgmt : (s.busReset).mgmt = s.mgmt := rfl
@[simp] theorem State.busReset_pending : (s.busReset).pending = s.pending := rfl

@[simp] theorem State.runTimers_regionMap : (s.runTimers).regionMap = s.regionMap := rfl
@[simp] theorem State.runTimers_upstream : (s.runTimers).upstream = s.upstream := rfl
@[simp] theorem State.runTimers_reads : (s.runTimers).reads = s.reads := rfl
@[simp] theorem State.runTimers_bitops : (s.runTimers).bitops = s.bitops := rfl
@[simp] theorem State.runTimers_opList : (s.runTimers).opList = s.opList := rfl
@[simp] theorem State.runTimers_lanes : (s.runTimers).lanes = s.lanes := rfl
@[simp] theorem State.runTimers_masters : (s.runTimers).masters = s.masters := rfl
@[simp] theorem State.runTimers_control : (s.runTimers).control = s.control := rfl
@[simp] theorem State.runTimers_faults : (s.runTimers).faults = s.faults := rfl
@[simp] theorem State.runTimers_events : (s.runTimers).events = s.events := rfl
@[simp] theorem State.runTimers_mgmt : (s.runTimers).mgmt = s.mgmt := rfl
@[simp] theorem State.runTimers_pending : (s.runTimers).pending = s.pending := rfl

end Sys2Proof.Machine
end

