-- ==== Sys2Proof/Laws/Settle.lean ====
section
/-! SUPPORT. Everything the steps of an event can be, and the rule by which a property is carried through them. -/
namespace Sys2Proof.Machine

/-! ## Which step is due -/

/-- A slot grant, with what it needs: a slot, and its claimant first in the order of R145. -/
theorem State.nextGrant_cases {s : State} {i : Internal} (h : s.nextGrant = some i) :
    s.slotAvailable = true ∧
      ((∃ r, i = .placeRead r ∧ s.readyRead = some r) ∨
       (∃ r, i = .placeBit r ∧ s.readyRead = none ∧ s.readyBit = some r) ∨
       (∃ m, i = .placeBarrier m ∧ s.readyRead = none ∧ s.readyBit = none ∧
          s.control.bridge.answersBarriers = true ∧ s.finishedBarrier = some m)) := by
  unfold State.nextGrant at h
  split at h
  · next hs =>
    refine ⟨hs, ?_⟩
    split at h
    · next r hr => exact .inl ⟨r, by simpa using h.symm, hr⟩
    · next hr =>
      split at h
      · next b hb => exact .inr (.inl ⟨b, by simpa using h.symm, hr, hb⟩)
      · next hb =>
        unfold State.barrierDue at h
        split at h
        · next ha =>
          cases hf : s.finishedBarrier with
          | none => simp [hf] at h
          | some m => exact .inr (.inr ⟨m, by simpa [hf] using h.symm, hr, hb, ha, rfl⟩)
        · simp at h
  · simp at h

/-- The READY record a grant of R70 names is READY. -/
theorem State.readyRead_ready {s : State} {i : ReadIx} (h : s.readyRead = some i) :
    ∃ r st d, s.reads[i] = .ready r st d := by
  have hp := (lowestFin_some.mp h).1
  cases hc : s.reads[i] with
  | ready r st d => exact ⟨r, st, d, rfl⟩
  | free => simp [hc] at hp
  | waitFill _ => simp [hc] at hp
  | orphaned _ => simp [hc] at hp

/-- The READY record a grant of R84 names is READY. -/
theorem State.readyBit_ready {s : State} {i : BitIx} (h : s.readyBit = some i) :
    ∃ b st d, s.bitops[i] = .ready b st d := by
  have hp := (lowestFin_some.mp h).1
  cases hc : s.bitops[i] with
  | ready r st d => exact ⟨r, st, d, rfl⟩
  | free => simp [hc] at hp
  | queued _ => simp [hc] at hp
  | inFlight _ _ => simp [hc] at hp
  | orphaned _ => simp [hc] at hp

/-- The barrier a grant of R94 names is present, with an empty wait set. -/
theorem State.finishedBarrier_finished {s : State} {m : MasterIx} (h : s.finishedBarrier = some m) :
    ∃ b, s.masters[m].barrier = some b ∧ b.waitSet = 0 := by
  have hp := (lowestFin_some.mp h).1
  unfold MasterCtx.finished at hp
  split at hp
  · next b hb => exact ⟨b, hb, by simpa using hp⟩
  · simp at hp

/-- An upstream step: a grant, or an offer when no grant is due. -/
theorem State.nextUpstream_cases {s : State} {i : Internal} (h : s.nextUpstream = some i) :
    s.nextGrant = some i ∨ (i = .offer ∧ s.nextGrant = none ∧ s.offerIsDue = true) := by
  unfold State.nextUpstream at h
  split at h
  · next j hj => exact .inl (by rw [hj]; exact h)
  · next hn =>
    split at h
    · next ho => exact .inr ⟨by simpa using h.symm, hn, ho⟩
    · simp at h

/-- Each step with its condition. -/
theorem State.nextInternal_cases {s : State} {i : Internal} (h : s.nextInternal = some i) :
    (i = .clear ∧ s.clearDue = true) ∨
    (s.clearDue = false ∧
      ((s.nextGrant = some i) ∨ (i = .offer ∧ s.offerIsDue = true) ∨ (i = .dispatch ∧ s.dispatchChoice.isSome = true) ∨
       (i = .issue ∧ s.issueDue = true) ∨ (i = .quiesced ∧ s.quiesceDue = true))) := by
  unfold State.nextInternal at h
  split at h
  · next hc => exact .inl ⟨by simpa using h.symm, hc⟩
  · next hc =>
    refine .inr ⟨by simpa using hc, ?_⟩
    split at h
    · next j hj =>
      have e : j = i := by simpa using h
      subst e
      rcases State.nextUpstream_cases hj with hg | ⟨ho, -, hd⟩
      · exact .inl hg
      · exact .inr (.inl ⟨ho, hd⟩)
    · split at h
      · next hd => exact .inr (.inr (.inl ⟨by simpa using h.symm, hd⟩))
      · split at h
        · next hi => exact .inr (.inr (.inr (.inl ⟨by simpa using h.symm, hi⟩)))
        · split at h
          · next hq => exact .inr (.inr (.inr (.inr ⟨by simpa using h.symm, hq⟩)))
          · simp at h

/-! ## Carrying a property through an event -/

theorem State.settleLoop_keeps {P : State → Prop}
    (hi : ∀ s i, s.nextInternal = some i → P s → P (s.runInternal i)) : ∀ n s, P s → P (State.settleLoop n s)
  | 0, _, h => h
  | n + 1, s, h => by
    unfold State.settleLoop
    split
    · next i hn => exact State.settleLoop_keeps hi n _ (hi s i hn h)
    · exact h

/-- What every due step keeps, and the end of the event keeps, an event keeps. -/
theorem State.settle_keeps {P : State → Prop}
    (hi : ∀ s i, s.nextInternal = some i → P s → P (s.runInternal i)) (he : ∀ s, P s → P s.endEvent)
    {s : State} (h : P s) : P s.settle :=
  he _ (State.settleLoop_keeps hi _ _ h)

theorem State.serveUpstream_keeps {P : State → Prop}
    (hi : ∀ s i, s.nextUpstream = some i → P s → P (s.runUpstream i)) : ∀ n s, P s → P (State.serveUpstream n s)
  | 0, _, h => h
  | n + 1, s, h => by
    unfold State.serveUpstream
    split
    · next i hn => exact State.serveUpstream_keeps hi n _ (hi s i hn h)
    · exact h

/-- With no step due an event only ends. -/
theorem State.settle_of_none {s : State} (h : s.nextInternal = none) : s.settle = s.endEvent := by
  have e : s.settleLoop stepBound = s := by
    unfold stepBound State.settleLoop
    simp [h]
  unfold State.settle
  rw [e]

/-- An upstream step is the same step of an event. -/
theorem State.runUpstream_eq {s : State} {i : Internal} (h : s.nextUpstream = some i) : s.runUpstream i = s.runInternal i := by
  rcases State.nextUpstream_cases h with hg | ⟨rfl, -, -⟩
  · rcases (State.nextGrant_cases hg).2 with ⟨r, rfl, -⟩ | ⟨r, rfl, -⟩ | ⟨m, rfl, -⟩ <;> rfl
  · rfl

end Sys2Proof.Machine
end

