-- ==== Sys2Proof/Laws/Changes.lean ====
section
/-! SUPPORT. Everything a command or a microsecond can do to the state, said once: a chain of the changes listed here, each with
the condition under which it is made. A property that every change keeps is kept by every step. -/
namespace Sys2Proof.Machine

/-- One indivisible change of the state, with its condition. -/
inductive Change (s : State) : State → Prop where
  -- the upstream port and the master contexts
  | marks (w : HeadWait) (d b : Bool) :
      Change s { s with upstream := { s.upstream with headWait := w, offerDue := d, busrst := b } }
  | headLeaves : Change s { s with upstream := { s.upstream with intake := s.upstream.intake.tail } }
  | arrives (r : Request) : s.accepts = true →
      Change s { s with upstream := { s.upstream with intake := s.upstream.intake ++ [r] } }
  | places (r : Response) : s.slotAvailable = true → Change s (s.placeResponse r)
  | delivers : Change s { s with upstream := { s.upstream with responses := s.upstream.responses.tail } }
  | tagJoins (m : MasterIx) (t : Tag) : Change s (s.addTag m t)
  | tagLeaves (m : MasterIx) (t : Tag) : Change s (s.removeTag m t)
  | records (m : MasterIx) (k : DeferredKind) : Change s (s.recordError m k)
  | takesBarrier (m : MasterIx) (t : Tag) : s.control.bridge = .run → s.masters[m].barrier = none →
      Change s (s.updateMaster m fun c => { c with barrier := some ⟨t, s.buffer.waitSet m⟩ })
  | answersBarrier (m : MasterIx) (t : Tag) : s.slotAvailable = true → Change s (s.answerBarrier m t)
  -- the fault queue and the event unit
  | raises (e : EventSource) : Change s (s.raise e)
  | logs (r : FaultRecord) : Change s (s.logFault r)
  | clearsEvents (set : SourceSet) : Change s { s with events := s.events.clear set }
  | takesEvent (i : Fin 12) : s.events.choose = some i → Change s { s with events := s.events.take i }
  | endsService : Change s { s with events := s.events.pop }
  | enables (v : SourceSet) : v.getLsbD 0 = true → Change s { s with events := { s.events with enable := v }.recompute }
  | levels (v : SourceSet) : v.getLsbD 0 = true → Change s { s with events := { s.events with urgent := v }.recompute }
  | popsFault (r : FaultRecord) (rs : List FaultRecord) : s.faults.records = r :: rs →
      Change s { s with faults := { s.faults with records := rs } }
  | clearsFaults : Change s { s with faults := { s.faults with records := [], overflow := 0 } }
  -- the combine buffer
  | stores (e : EntryIx) (L p : Nat) (bytes : List Byte) (m : MasterIx) :
      s.control.bridge = .run → 1 ≤ bytes.length → p < 32 →
      s.buffer.openEntry L = some e ∨ s.buffer.heldEntry L = some e → Change s (s.storeInto e p bytes m)
  | allocates (e : EntryIx) (L p : Nat) (bytes : List Byte) (m : MasterIx) :
      s.control.bridge = .run → 1 ≤ bytes.length → p < 32 →
      s.buffer.openEntry L = none → s.buffer.heldEntry L = none → s.buffer.lowestFree = some e →
      Change s (s.allocate e L p bytes m)
  | commits (e : EntryIx) (L : Nat) : s.buffer.entries[e].state = .opened → s.buffer.entries[e].line = some L →
      s.buffer.predecessor L = none → Change s (s.commit e L)
  | pends (e : EntryIx) : s.buffer.entries[e].state = .opened →
      Change s (s.setEntry e { s.buffer.entries[e] with closePending := true })
  | ages (e : EntryIx) : s.buffer.entries[e].state = .opened → s.buffer.entries[e].ageTimer.isSome = true →
      Change s (s.setEntry e { s.buffer.entries[e] with ageTimer := some 0 })
  | discards (e : EntryIx) : s.buffer.entries[e].state = .held → Change s (s.discard e)
  | recommits (e : EntryIx) (k : DrainKind) : s.buffer.entries[e].state = .held → s.control.bridge.releases = true →
      Change s (s.recommit e k).backToQuiescing
  -- the records
  | takesRead (r : ReadIx) (q : ReadReq) : s.control.bridge = .run → s.reads[r] = .free →
      Change s ((s.setRead r (.waitFill q)).attachFill r q.line)
  | placesRead (i : ReadIx) : s.slotAvailable = true → Change s (s.placeRead i)
  | takesBitOp (i : BitIx) (b : BitReq) : s.control.bridge = .run → s.bitops[i] = .free →
      s.buffer.hasEntry b.line = false → Change s ((s.setBit i (.queued b)).appendOp (.bitop i) b.line)
  | placesBit (i : BitIx) : s.slotAvailable = true → Change s (s.placeBit i)
  | keepsOld (i : BitIx) (old : List Byte) : Change s (s.setBit i (s.bitops[i].keepOld old))
  -- lanes and the array port
  | dispatches (k : LaneIx) (i : Nat) : s.dispatchChoice = some (k, i) → Change s (s.takeOp k i)
  | issues : s.issueDue = true → Change s s.issue
  | setsPort (c : PortCondition) : Change s (s.setPort c)
  | counts (f n : Nat) : f ≤ Config.failuresMax → n ≤ Config.correctedMax ∨ n = s.port.correctedCount →
      Change s { s with port := { s.port with failures := f, correctedCount := n } }
  | corrects (n : Nat) : n ≤ Config.correctedMax →
      Change s { s with port := { s.port with correctedCount := n } }
  | goesOn (k : LaneIx) (o : Operation) (line : Nat) (bytes : LineBytes) (f : Option FaultRecord) :
      s.laneOp k = some o → Change s (s.goOn k line bytes f)
  | endsDrain (k : LaneIx) (o : Operation) (d : DrainKind) (e : EntryIx) (r : Option HeldReason) (w : Option WordIx) :
      s.laneOp k = some o → o.work = .drain d e → Change s (s.completeDrain k o e r w)
  | endsFill (k : LaneIx) (o : Operation) (readers : List ReadIx) (f : ReadReq → RecordStatus × List Byte)
      (r : Option FaultRecord) : s.laneOp k = some o → o.work = .fill readers →
      Change s (((s.removeLaneOp k).answerReaders readers f |>.logFault? r).setLane k .idle)
  | endsBitOp (k : LaneIx) (o : Operation) (i : BitIx) (st : RecordStatus) (d : List Byte) (f : Option FaultRecord) :
      s.laneOp k = some o → o.work = .bitop i → Change s (s.completeBitOp k i st d f)
  | endsScrub (k : LaneIx) (o : Operation) (f : Option FaultRecord) : s.laneOp k = some o → o.work = .scrub →
      Change s (s.completeScrub k f)
  -- the bridge state
  | starts : s.control.bridge = .config ∨ s.control.bridge = .quiesced →
      Change s (if (s.setBridge .run).scrub.running then (s.setBridge .run).loadScrubTimer
        else (s.setBridge .run).idleScrubTimer)
  | quiesces : s.control.bridge = .run → Change s (s.setBridge .quiescing).idleScrubTimer
  | configures : s.control.bridge = .quiesced → s.buffer.count .held = 0 → Change s (s.setBridge .config)
  | halts (c : HaltCause) : s.control.bridge ≠ .halted → s.control.bridge ≠ .restarting → Change s (s.halt c)
  | restarts : Change s (s.setBridge .restarting).idleScrubTimer
  | completesQuiesce : s.quiesceDue = true → Change s s.enterQuiesced
  | clears : s.clearDue = true → Change s s.clear
  -- the scrubber and the timers
  | appendsScrub : s.scrub.timer.isSome = true → s.scrubListed = false →
      Change s ((s.appendOp .scrub s.scrub.position).advanceScrub).loadScrubTimer
  | skipsScrub : s.scrub.timer.isSome = true → Change s s.loadScrubTimer
  | startsScrub : s.control.bridge = .run →
      Change s { s with scrub := { s.scrub with running := true, timer := some s.scrub.interval } }
  | stopsScrub : Change s (s.stopScrubber.keepOps fun o => !o.isQueuedScrub)
  | ticks : Change s s.runTimers
  -- items
  | setsSize (v : Nat) : s.control.bridge = .config → Change s (s.storeMemorySize v)
  | setsRegion (n : RegionIx) (r : Region) : s.control.bridge = .config → Change s (s.storeRegion n r)
  | setsBuffer (a c : Nat) : Change s { s with buffer := { s.buffer with ageLimit := a, closeAhead := c } }
  | setsLimits (t r h : Nat) : s.control.bridge = .config →
      Change s { s with port := { s.port with responseTimeout := t, retryLimit := r, haltThreshold := h } }
  | setsLog (b : Bool) : Change s { s with port := { s.port with logCorrected := b } }
  | setsScrub (p i : Nat) : Change s { s with scrub := { s.scrub with position := p, interval := i } }
  -- resets and the management port
  | resetsBus : Change s s.busReset
  | powersOn : Change s s.powerOn
  | setsMgmt (g : MgmtPort) : g.frameErrors ≤ Config.byteCountMax ∨ g.frameErrors = s.mgmt.frameErrors →
      Change s { s with mgmt := g }

/-- A chain of changes. -/
inductive Changes (s : State) : State → Prop where
  | none : Changes s s
  | more {t u : State} : Changes s t → Change t u → Changes s u

theorem Change.once {s t : State} (h : Change s t) : Changes s t := .more .none h

theorem Changes.trans {s t u : State} (h : Changes s t) (g : Changes t u) : Changes s u := by
  induction g with
  | none => exact h
  | more _ c ih => exact .more ih c

theorem Changes.after {s t u : State} (h : Change s t) (g : Changes t u) : Changes s u := h.once.trans g

/-- What every change keeps, a chain keeps. -/
theorem Changes.keeps {P : State → Prop} (hc : ∀ s t, Change s t → P s → P t) {s t : State} (h : Changes s t) (p : P s) :
    P t := by
  induction h with
  | none => exact p
  | more _ c ih => exact hc _ _ c ih

/-! ## The operations as chains -/

theorem changes_wake (s : State) (w : Wake) : Changes s (s.wake w) :=
  (Change.marks (s := s) s.upstream.headWait (s.upstream.offerDue || s.upstream.headWait.wokenBy w) s.upstream.busrst).once

theorem changes_headWaits (s : State) (w : HeadWait) : Changes s (s.headWaits w) :=
  (Change.marks (s := s) w false s.upstream.busrst).once

theorem changes_offerFresh (s : State) : Changes s s.offerFresh :=
  (Change.marks (s := s) s.upstream.headWait (!s.upstream.intake.isEmpty) s.upstream.busrst).once

theorem changes_endEvent (s : State) : Changes s s.endEvent :=
  (Change.marks (s := s) s.upstream.headWait false s.upstream.busrst).once

theorem changes_popHead (s : State) : Changes s s.popHead :=
  .more (Change.headLeaves (s := s)).once (Change.marks .none (!s.upstream.intake.tail.isEmpty) s.upstream.busrst)

/-- The entry that a line's lookup names has that line and passes the test. -/
theorem CombineBuffer.entryOf_spec {b : CombineBuffer} {p : EntryState → Bool} {L : Nat} {e : EntryIx}
    (h : b.entryOf p L = some e) : p b.entries[e].state = true ∧ b.entries[e].line = some L := by
  have hp := (lowestFin_some.mp h).1
  simpa using hp

/-- No entry of the line passes the test. -/
theorem CombineBuffer.entryOf_none {b : CombineBuffer} {p : EntryState → Bool} {L : Nat} (h : b.entryOf p L = none)
    (e : EntryIx) : p b.entries[e].state = true → b.entries[e].line ≠ some L := by
  have hp := lowestFin_none.mp h e
  intro h1 h2
  simp only [Bool.and_eq_false_imp] at hp
  simp_all

/-- A close request does nothing, or commits, or makes the entry close-pending (R29). -/
theorem State.closeRequest_cases (s : State) (e : EntryIx) :
    s.closeRequest e = s ∨
    (∃ L, s.buffer.entries[e].state = .opened ∧ s.buffer.entries[e].closePending = false ∧
      s.buffer.entries[e].line = some L ∧
      ((s.buffer.predecessor L = none ∧ s.closeRequest e = s.commit e L) ∨
       (∃ p, s.buffer.predecessor L = some p ∧
        s.closeRequest e = s.setEntry e { s.buffer.entries[e] with closePending := true }))) := by
  unfold State.closeRequest
  dsimp only
  split
  · exact .inl rfl
  · next L hL =>
    split
    · next hc =>
      refine .inr ⟨L, hc.1, hc.2, hL, ?_⟩
      split
      · next hp => exact .inl ⟨hp, rfl⟩
      · next p hp => exact .inr ⟨p, hp, rfl⟩
    · exact .inl rfl

theorem changes_closeRequest (s : State) (e : EntryIx) : Changes s (s.closeRequest e) := by
  rcases s.closeRequest_cases e with h | ⟨L, ho, -, hL, ⟨hp, h⟩ | ⟨p, -, h⟩⟩
  · rw [h]; exact .none
  · rw [h]; exact (Change.commits e L ho hL hp).once
  · rw [h]; exact (Change.pends e ho).once

theorem changes_closeRequest? (s : State) (o : Option EntryIx) : Changes s (s.closeRequest? o) := by
  cases o with
  | none => exact .none
  | some e => exact changes_closeRequest s e

theorem changes_closeAll (s : State) (es : List EntryIx) : Changes s (s.closeAll es) := by
  induction es generalizing s with
  | nil => exact .none
  | cons e es ih => exact (changes_closeRequest s e).trans (ih (s.closeRequest e))

theorem changes_afterWrite (s : State) (e : EntryIx) (a : Attr) : Changes s (s.afterWrite e a) := by
  unfold State.afterWrite
  dsimp only
  split <;> split
  · exact (changes_closeRequest s e).trans (changes_closeRequest _ e)
  · exact changes_closeRequest s e
  · exact changes_closeRequest s e
  · exact .none

theorem changes_pressure (s : State) : Changes s s.pressure := by
  unfold State.pressure
  split
  · exact changes_closeRequest? s _
  · exact .none

theorem changes_freeEntryWait (s : State) : Changes s s.freeEntryWait := by
  unfold State.freeEntryWait
  dsimp only
  refine Changes.trans ?_ ((changes_closeRequest? _ _).trans (changes_headWaits _ _))
  split
  · exact (Change.raises _).once
  · exact .none

theorem changes_offerWrite {s : State} {L p : Nat} {bytes : List Byte} {m : MasterIx} {attr : Attr}
    (hr : s.control.bridge = .run) (hb : 1 ≤ bytes.length) (hp : p < 32) :
    Changes s (s.offerWrite L p bytes m attr) := by
  unfold State.offerWrite
  split
  · next e he =>
    exact .after (Change.stores e L p bytes m hr hb hp (.inl he)) ((changes_afterWrite _ _ _).trans (changes_popHead _))
  · next hn =>
    split
    · next h he =>
      exact .after (Change.stores h L p bytes m hr hb hp (.inr he)) (.after (Change.records m _) (changes_popHead _))
    · next hn' =>
      split
      · next e he =>
        exact .after (Change.allocates e L p bytes m hr hb hp hn hn' he)
          ((changes_afterWrite _ _ _).trans ((changes_pressure _).trans (changes_popHead _)))
      · exact changes_freeEntryWait s

theorem changes_refuse (s : State) (m : MasterIx) (t : Tag) (a : Option UpAddr) (k : ReqKind) (st : RefusalStatus)
    (w : HeadWait) : Changes s (s.refuse m t a k st w) := by
  unfold State.refuse
  split
  · next hs =>
    refine .after (Change.places (.refused m t st) hs) ?_
    dsimp only
    split
    · exact .after (Change.logs _) (changes_popHead _)
    · exact changes_popHead _
  · exact changes_headWaits _ _

theorem changes_dropWrite (s : State) (m : MasterIx) (a : UpAddr) (f : FaultKind) (k : DeferredKind) :
    Changes s (s.dropWrite m a f k) :=
  .after (Change.logs _) (.after (Change.records m k) (.after (Change.raises _) (changes_popHead _)))

theorem changes_offerRead {s : State} {L p n : Nat} {m : MasterIx} {t : Tag} (hr : s.control.bridge = .run) :
    Changes s (s.offerRead L p n m t) := by
  unfold State.offerRead
  dsimp only
  split
  · split
    · next hs => exact .after (Change.places _ hs) (.after (Change.tagJoins m t) (changes_popHead _))
    · exact changes_headWaits _ _
  · split
    · next r hf =>
      have hfree : s.reads[r] = .free := by
        have := (lowestFin_some.mp hf).1
        cases hc : s.reads[r] <;> simp_all [ReadRec.isFree]
      exact .after (Change.takesRead r ⟨m, t, L, p, n, (s.buffer.overlay L).1, (s.buffer.overlay L).2⟩ hr hfree)
        (.after (Change.tagJoins m t) (changes_popHead _))
    · exact changes_headWaits _ _

theorem changes_offerBitOp {s : State} {L p : Nat} {k : BitKind} {operand : List Byte} {m : MasterIx} {t : Tag}
    (hr : s.control.bridge = .run) : Changes s (s.offerBitOp L p k operand m t) := by
  unfold State.offerBitOp
  split
  · exact (changes_closeRequest? _ _).trans (changes_headWaits _ _)
  · next hn =>
    split
    · exact changes_headWaits _ _
    · next r hf =>
      have hfree : s.bitops[r] = .free := by
        have := (lowestFin_some.mp hf).1
        cases hc : s.bitops[r] <;> simp_all [BitRec.isFree]
      exact .after (Change.takesBitOp r ⟨m, t, k, L, wordOfPos p, p, operand⟩ hr hfree (by simpa using hn))
        (.after (Change.tagJoins m t) (changes_popHead _))

theorem changes_offerBarrier {s : State} {m : MasterIx} {t : Tag} (hr : s.control.bridge = .run)
    (hb : s.masters[m].barrier = none) : Changes s (s.offerBarrier m t) := by
  unfold State.offerBarrier
  dsimp only
  split
  · split
    · next hs => exact .after (Change.answersBarrier m t hs) (.after (Change.tagJoins m t) (changes_popHead _))
    · exact changes_headWaits _ _
  · exact .after (Change.takesBarrier m t hr hb)
      ((changes_closeAll _ _).trans (.after (Change.tagJoins m t) (changes_popHead _)))

theorem run_of_headRefusal {s : State} (he : s.examinable = true) (h : s.control.bridge.headRefusal = none) :
    s.control.bridge = .run := by
  unfold State.examinable at he
  cases hb : s.control.bridge <;> simp_all [BridgeState.headRefusal]

theorem posOf_lt (a : Nat) : posOf a < 32 := Nat.mod_lt _ (by decide)

/-- A request that passes the alignment check names at least one byte. -/
theorem pos_of_inLine {a : UpAddr} {n : Nat} (h : ¬inLine a n = false) : 1 ≤ n := by
  unfold inLine at h
  simp only [decide_eq_false_iff_not, Classical.not_not] at h
  exact h.1

theorem changes_offerHead {s : State} (he : s.examinable = true) : Changes s s.offerHead := by
  unfold State.offerHead
  split
  · exact .none
  · next m t a n _ hi =>
    unfold State.examineRead
    split
    · exact changes_refuse _ _ _ _ _ _ _
    · next hn =>
      split
      · exact changes_refuse _ _ _ _ _ _ _
      · split
        · exact changes_refuse _ _ _ _ _ _ _
        · split
          · exact changes_refuse _ _ _ _ _ _ _
          · exact changes_refuse _ _ _ _ _ _ _
          · exact changes_offerRead (run_of_headRefusal he hn)
  · next m t a bytes _ hi =>
    unfold State.examineWrite
    split
    · exact changes_dropWrite _ _ _ _ _
    · next hn =>
      split
      · exact changes_dropWrite _ _ _ _ _
      · next hb =>
        split
        · exact changes_dropWrite _ _ _ _ _
        · exact changes_dropWrite _ _ _ _ _
        · exact changes_offerWrite (run_of_headRefusal he hn) (pos_of_inLine hb) (posOf_lt _)
  · next k m t a operand _ hi =>
    unfold State.examineBitOp
    split
    · exact changes_refuse _ _ _ _ _ _ _
    · next hn =>
      split
      · exact changes_refuse _ _ _ _ _ _ _
      · split
        · exact changes_refuse _ _ _ _ _ _ _
        · split
          · exact changes_refuse _ _ _ _ _ _ _
          · exact changes_refuse _ _ _ _ _ _ _
          · split
            · exact changes_refuse _ _ _ _ _ _ _
            · exact changes_offerBitOp (run_of_headRefusal he hn)
  · next m t _ hi =>
    unfold State.examineBarrier
    split
    · exact changes_refuse _ _ _ _ _ _ _
    · next hn =>
      split
      · exact changes_refuse _ _ _ _ _ _ _
      · split
        · exact changes_refuse _ _ _ _ _ _ _
        · next hb => exact changes_offerBarrier (run_of_headRefusal he hn) hb

theorem changes_placeBarrier {s : State} (m : MasterIx) (hs : s.slotAvailable = true) : Changes s (s.placeBarrier m) := by
  unfold State.placeBarrier
  split
  · exact (Change.answersBarrier m _ hs).once
  · exact .none

theorem changes_nextGrant {s : State} {i : Internal} (h : s.nextGrant = some i) : Changes s (s.runInternal i) := by
  obtain ⟨hs, ⟨r, rfl, -⟩ | ⟨r, rfl, -⟩ | ⟨m, rfl, -⟩⟩ := State.nextGrant_cases h
  · exact (Change.placesRead r hs).once
  · exact (Change.placesBit r hs).once
  · exact changes_placeBarrier m hs

theorem examinable_of_due {s : State} (h : s.offerIsDue = true) : s.examinable = true := by
  unfold State.offerIsDue at h
  simp only [Bool.and_eq_true] at h
  exact h.1.1

theorem changes_nextUpstream {s : State} {i : Internal} (h : s.nextUpstream = some i) : Changes s (s.runUpstream i) := by
  rw [State.runUpstream_eq h]
  rcases State.nextUpstream_cases h with hg | ⟨rfl, -, hd⟩
  · exact changes_nextGrant hg
  · exact changes_offerHead (examinable_of_due hd)

theorem changes_dispatch (s : State) : Changes s s.dispatch := by
  unfold State.dispatch
  split
  · next k i h => exact (Change.dispatches k i h).once
  · exact .none

theorem changes_nextInternal {s : State} {i : Internal} (h : s.nextInternal = some i) : Changes s (s.runInternal i) := by
  rcases State.nextInternal_cases h with ⟨rfl, hc⟩ | ⟨-, hg | ⟨rfl, hd⟩ | ⟨rfl, -⟩ | ⟨rfl, hi⟩ | ⟨rfl, hq⟩⟩
  · exact (Change.clears hc).once
  · exact changes_nextGrant hg
  · exact changes_offerHead (examinable_of_due hd)
  · exact changes_dispatch s
  · exact (Change.issues hi).once
  · exact (Change.completesQuiesce hq).once

theorem changes_settle {s t : State} (h : Changes s t) : Changes s t.settle :=
  State.settle_keeps (P := Changes s) (fun _ _ hn hu => hu.trans (changes_nextInternal hn))
    (fun u hu => hu.trans (changes_endEvent u)) h

theorem changes_serveUpstream {s t : State} (n : Nat) (h : Changes s t) : Changes s (State.serveUpstream n t) :=
  State.serveUpstream_keeps (P := Changes s) (fun _ _ hn hu => hu.trans (changes_nextUpstream hn)) n t h

/-! ## Completions -/

theorem changes_logFault? (s : State) (f : Option FaultRecord) : Changes s (s.logFault? f) := by
  cases f with
  | none => exact .none
  | some r => exact (Change.logs r).once

/-- The fields that logging leaves alone. -/
@[simp] theorem State.logFault_laneOp (s : State) (r : FaultRecord) (k : LaneIx) : (s.logFault r).laneOp k = s.laneOp k := rfl
@[simp] theorem State.raise_laneOp (s : State) (e : EventSource) (k : LaneIx) : (s.raise e).laneOp k = s.laneOp k := rfl
@[simp] theorem State.setPort_laneOp (s : State) (c : PortCondition) (k : LaneIx) : (s.setPort c).laneOp k = s.laneOp k := rfl
@[simp] theorem State.setBit_laneOp (s : State) (i : BitIx) (x : BitRec) (k : LaneIx) :
    (s.setBit i x).laneOp k = s.laneOp k := rfl

theorem changes_noteWord (s : State) (line : Nat) (op : Option (OpKind × BitVec 16)) (w : WordIx) (x : ReadWord) :
    Changes s (s.noteWord line op w x) := by
  unfold State.noteWord
  split
  · exact .none
  · exact (Change.raises _).once
  · dsimp only
    refine .after (Change.corrects (saturate Config.correctedMax s.port.correctedCount) (Nat.min_le_left _ _)) ?_
    split
    · exact .after (Change.raises _) (Change.logs _).once
    · exact (Change.raises _).once

theorem changes_noteWords (s : State) (line : Nat) (op : Option (OpKind × BitVec 16)) (ws : Vector ReadWord 4) :
    Changes s (s.noteWords line op ws) := by
  unfold State.noteWords
  generalize List.finRange 4 = l
  induction l generalizing s with
  | nil => exact .none
  | cons w l ih => exact (changes_noteWord s line op w ws[w]).trans (ih _)

theorem changes_laneRead (s : State) (k : LaneIx) (ws : Vector ReadWord 4) : Changes s (s.laneRead k ws) := by
  unfold State.laneRead
  split
  · exact .none
  · next o ho =>
    split
    · next hw =>
      unfold State.drainRead
      dsimp only
      split
      · exact (Change.goesOn k o _ _ _ ho).once
      · exact (Change.goesOn k o _ _ _ ho).once
      · exact .after (Change.logs _) (Change.endsDrain k o _ _ _ _ (by simpa using ho) hw).once
    · next readers hw => exact (Change.endsFill k o readers _ _ ho hw).once
    · next i hw =>
      unfold State.bitopRead
      split
      · exact .none
      · dsimp only
        split
        · exact (Change.endsBitOp k o i _ _ _ ho hw).once
        · exact .after (Change.keepsOld i _) (Change.goesOn k o _ _ _ (by simpa using ho)).once
    · next hw =>
      unfold State.scrubRead
      split
      · exact (Change.endsScrub k o _ ho hw).once
      · split
        · exact (Change.goesOn k o _ _ _ ho).once
        · exact (Change.endsScrub k o _ ho hw).once

theorem changes_laneWritten (s : State) (k : LaneIx) : Changes s (s.laneWritten k) := by
  unfold State.laneWritten
  split
  · exact .none
  · next o ho =>
    split
    · next d e hw => exact (Change.endsDrain k o d e _ _ ho hw).once
    · exact .none
    · next i hw => exact (Change.endsBitOp k o i _ _ _ ho hw).once
    · next hw => exact (Change.endsScrub k o _ ho hw).once

theorem changes_done (s : State) (c : InProgress) (words : Vector CodedWord 4) : Changes s (s.done c words) := by
  unfold State.done
  dsimp only
  have h : Changes s ({ s with port := { s.port with failures := 0 } }.setPort .idle) :=
    .after (Change.counts (s := s) 0 s.port.correctedCount (by decide) (.inr rfl)) (Change.setsPort .idle).once
  split
  · exact h.trans (changes_laneWritten _ _)
  · exact h.trans ((changes_noteWords _ _ _ _).trans (changes_laneRead _ _ _))

theorem changes_laneFailed (s : State) (k : LaneIx) (r : FailReason) : Changes s (s.laneFailed k r) := by
  unfold State.laneFailed
  split
  · exact .none
  · next o ho =>
    split
    · next d e hw => exact (Change.endsDrain k o d e _ _ ho hw).once
    · next readers hw => exact (Change.endsFill k o readers _ none ho hw).once
    · next i hw => exact (Change.endsBitOp k o i _ _ _ ho hw).once
    · next hw => exact (Change.endsScrub k o _ ho hw).once

theorem changes_enterHalted {s : State} (c : HaltCause) (h1 : s.control.bridge ≠ .halted)
    (h2 : s.control.bridge ≠ .restarting) : Changes s (s.enterHalted c) :=
  changes_serveUpstream _ (Change.halts c h1 h2).once

theorem changes_countFailure (s : State) : Changes s s.countFailure := by
  unfold State.countFailure
  dsimp only
  refine .after (Change.counts (s := s) (saturate Config.failuresMax s.port.failures) s.port.correctedCount
    (Nat.min_le_left _ _) (.inr rfl)) ?_
  split
  · next hc =>
    refine changes_enterHalted _ (fun hb => ?_) (fun hb => ?_) <;>
      · have hb' : s.control.bridge = _ := hb
        simp [hb', BridgeState.working] at hc
  · exact .none

theorem changes_finalFailure (s : State) (c : InProgress) (r : FailReason) (n : PortCondition) :
    Changes s (s.finalFailure c r n) :=
  .after (Change.setsPort n) (.after (Change.logs _) (.after (Change.raises _)
    ((changes_countFailure _).trans (changes_laneFailed _ _ _))))

theorem changes_arrayDone (s : State) (words : Vector CodedWord 4) : Changes s (s.arrayDone words) := by
  unfold State.arrayDone
  split
  · exact changes_settle (changes_done _ _ _)
  · exact .none

theorem changes_arrayFault (s : State) : Changes s s.arrayFault := by
  unfold State.arrayFault
  split
  · exact changes_settle (changes_finalFailure _ _ _ _)
  · exact .none

theorem changes_completionTimeout (s : State) : Changes s s.completionTimeout := by
  unfold State.completionTimeout
  split
  · split
    · exact changes_settle (Change.setsPort _).once
    · exact changes_settle (changes_finalFailure _ _ _ _)
  · exact .none

theorem changes_abortEnd (s : State) : Changes s s.abortEnd := by
  unfold State.abortEnd
  split
  · split
    · exact changes_settle (Change.setsPort _).once
    · exact changes_settle (changes_finalFailure _ _ _ _)
  · exact changes_settle (Change.setsPort _).once
  · exact .none

/-! ## Timers -/

theorem changes_ageExpires (s : State) (e : EntryIx) : Changes s (s.ageExpires e) := by
  unfold State.ageExpires
  dsimp only
  split
  · exact .none
  · next t ht =>
    split
    · next ho => exact changes_settle (.after (Change.ages e ho (by rw [ht]; rfl)) (changes_closeRequest _ e))
    · exact .none

theorem changes_closePendingCommit (s : State) (e : EntryIx) : Changes s (s.closePendingCommit e) := by
  unfold State.closePendingCommit
  dsimp only
  split
  · exact .none
  · next L hL =>
    split
    · next hc => exact changes_settle (Change.commits e L hc.1 hL hc.2.2).once
    · exact .none

theorem changes_scrubExpires (s : State) : Changes s s.scrubExpires := by
  unfold State.scrubExpires
  split
  · exact .none
  · next t ht =>
    split
    · exact (Change.skipsScrub (by simp [ht])).once
    · next hl => exact changes_settle (Change.appendsScrub (by simp [ht]) (by simpa using hl)).once

theorem changes_microsecond (s : State) : Changes s s.microsecond := by
  unfold State.microsecond
  have h1 : Changes s s.runTimers.firePort := by
    refine .after Change.ticks ?_
    unfold State.firePort
    split
    · exact changes_completionTimeout _
    · exact changes_abortEnd _
    · exact .none
  have h2 : ∀ (l : List EntryIx) (t : State), Changes s t → Changes s (l.foldl State.fireAge t) := by
    intro l
    induction l with
    | nil => exact fun _ h => h
    | cons e l ih =>
      intro t h
      refine ih _ (h.trans ?_)
      unfold State.fireAge
      split
      · exact changes_ageExpires _ _
      · exact .none
  refine (h2 (List.finRange 16) _ h1).trans ?_
  unfold State.fireScrub
  split
  · exact changes_scrubExpires _
  · exact .none

/-! ## Management commands -/

/-- A state that differs in the management port alone, with FRAME-ERRORS unchanged. -/
theorem changes_mgmt {s t : State} (h : t = { s with mgmt := t.mgmt }) (hf : t.mgmt.frameErrors = s.mgmt.frameErrors) :
    Changes s t := by
  rw [h]
  exact (Change.setsMgmt t.mgmt (.inr hf)).once

theorem changes_reply (s : State) (st : MgmtStatus) (d : List Byte) : Changes s (s.reply st d) :=
  changes_mgmt rfl rfl

/-- A management result whose state is reached by changes is replied by changes. -/
theorem changes_replied {s : State} {r : MgmtResult} (h : Changes s r.state) : Changes s r.replied :=
  h.trans (changes_reply _ _ _)

theorem changes_execute {s : State} {p : List Byte} {f : State → MgmtResult} (h : Changes s (f s).state) :
    Changes s (s.execute p f) := by
  unfold State.execute
  split
  · exact changes_replied h
  · exact changes_reply _ _ _

theorem changes_noPayload {s : State} {p : List Byte} {f : State → MgmtResult} (h : Changes s (f s).state) :
    Changes s (s.noPayload p f).state := by
  unfold State.noPayload
  split
  · exact h
  · exact .none

theorem changes_acceptedIn {s : State} {ok : Bool} {p : List Byte} {f : State → MgmtResult}
    (h : ok = true → Changes s (f s).state) : Changes s (s.acceptedIn ok p f).state := by
  unfold State.acceptedIn
  split
  · next ho => exact changes_noPayload (h ho)
  · exact .none

theorem changes_writeItem {s : State} {ok : Bool} {len : Nat} {inRange : Nat → Bool} {p : List Byte} {f : Nat → State}
    (h : ok = true → ∀ v, inRange v = true → Changes s (f v)) : Changes s (s.writeItem ok len inRange p f).state := by
  unfold State.writeItem
  split
  · exact .none
  · next ho =>
    split
    · next hv => exact h (by simpa using ho) _ hv.2
    · exact .none

theorem inConfig_eq {s : State} (h : s.inConfig = true) : s.control.bridge = .config := by simpa [State.inConfig] using h

theorem changes_setMemorySize (s : State) (p : List Byte) : Changes s (s.setMemorySize p).state :=
  changes_writeItem fun h _ _ => (Change.setsSize _ (inConfig_eq h)).once

theorem changes_setRegion (s : State) (n : RegionIx) (p : List Byte) : Changes s (s.setRegion n p).state := by
  unfold State.setRegion
  split
  · exact .none
  · next h =>
    split
    · exact (Change.setsRegion _ _ (inConfig_eq (by simpa using h))).once
    · exact .none

theorem changes_setAgeLimit (s : State) (p : List Byte) : Changes s (s.setAgeLimit p).state :=
  changes_writeItem fun _ v _ => (Change.setsBuffer v s.buffer.closeAhead).once

theorem changes_setCloseAhead (s : State) (p : List Byte) : Changes s (s.setCloseAhead p).state :=
  changes_writeItem fun _ v _ => changes_settle (Change.setsBuffer s.buffer.ageLimit v).once

theorem changes_setResponseTimeout (s : State) (p : List Byte) : Changes s (s.setResponseTimeout p).state :=
  changes_writeItem fun h v _ =>
    (Change.setsLimits v s.port.retryLimit s.port.haltThreshold (inConfig_eq h)).once

theorem changes_setRetryLimit (s : State) (p : List Byte) : Changes s (s.setRetryLimit p).state :=
  changes_writeItem fun h v _ =>
    (Change.setsLimits s.port.responseTimeout v s.port.haltThreshold (inConfig_eq h)).once

theorem changes_setHaltThreshold (s : State) (p : List Byte) : Changes s (s.setHaltThreshold p).state :=
  changes_writeItem fun h v _ =>
    (Change.setsLimits s.port.responseTimeout s.port.retryLimit v (inConfig_eq h)).once

theorem changes_setScrubInterval (s : State) (p : List Byte) : Changes s (s.setScrubInterval p).state :=
  changes_writeItem fun _ v _ => (Change.setsScrub s.scrub.position v).once

theorem changes_setScrubPosition (s : State) (p : List Byte) : Changes s (s.setScrubPosition p).state :=
  changes_writeItem fun _ v _ => (Change.setsScrub v s.scrub.interval).once

theorem changes_setCorrectedCount (s : State) (p : List Byte) : Changes s (s.setCorrectedCount p).state :=
  changes_writeItem fun _ _ _ => (Change.corrects 0 (by decide)).once

theorem changes_setLogCorrected (s : State) (p : List Byte) : Changes s (s.setLogCorrected p).state :=
  changes_writeItem fun _ v _ => (Change.setsLog (v == 1)).once

/-- An odd mask keeps source 1 (R167). -/
theorem bit0_of_odd {v : Nat} (h : (maskInRange v && v % 2 == 1) = true) : (BitVec.ofNat 12 v).getLsbD 0 = true := by
  simp only [Bool.and_eq_true, beq_iff_eq] at h
  simp [BitVec.getLsbD_ofNat, Nat.testBit_zero, h.2]

theorem changes_setEventEnable (s : State) (p : List Byte) : Changes s (s.setEventEnable p).state :=
  changes_writeItem fun _ _ hv => (Change.enables _ (bit0_of_odd hv)).once

theorem changes_setEventLevel (s : State) (p : List Byte) : Changes s (s.setEventLevel p).state :=
  changes_writeItem fun _ _ hv => (Change.levels _ (bit0_of_odd hv)).once

theorem changes_setEventPending (s : State) (p : List Byte) : Changes s (s.setEventPending p).state :=
  changes_writeItem fun _ _ _ => (Change.clearsEvents _).once

theorem changes_setFrameErrors (s : State) (p : List Byte) : Changes s (s.setFrameErrors p).state :=
  changes_writeItem fun _ _ _ => (Change.setsMgmt (s := s) { s.mgmt with frameErrors := 0 } (.inl (Nat.zero_le _))).once

theorem changes_setItem (s : State) (item : Nat) (p : List Byte) : Changes s (s.setItem item p).state := by
  unfold State.setItem
  split
  · exact changes_setMemorySize s p
  all_goals first
    | exact changes_setRegion s _ p
    | exact changes_setAgeLimit s p
    | exact changes_setCloseAhead s p
    | exact changes_setResponseTimeout s p
    | exact changes_setRetryLimit s p
    | exact changes_setHaltThreshold s p
    | exact changes_setScrubInterval s p
    | exact changes_setScrubPosition s p
    | exact changes_setCorrectedCount s p
    | exact changes_setLogCorrected s p
    | exact changes_setEventEnable s p
    | exact changes_setEventLevel s p
    | exact changes_setEventPending s p
    | exact changes_setFrameErrors s p
    | exact .none

theorem changes_getItem (s : State) (item : Nat) (p : List Byte) : Changes s (s.getItem item p).state := by
  unfold State.getItem
  split
  · exact .none
  · exact changes_noPayload .none

theorem changes_mgmtStart (s : State) (p : List Byte) : Changes s (s.mgmtStart p).state := by
  refine changes_acceptedIn fun h => ?_
  have hb : s.control.bridge = .config ∨ s.control.bridge = .quiesced := by simpa using h
  split
  · exact .none
  · exact changes_settle (.after (Change.starts hb) (changes_offerFresh _))

theorem changes_mgmtQuiesce (s : State) (p : List Byte) : Changes s (s.mgmtQuiesce p).state := by
  refine changes_acceptedIn fun _ => ?_
  split
  · next hr => exact changes_settle (.after (Change.quiesces hr) (changes_closeAll _ _))
  · exact .none

theorem changes_mgmtConfigure (s : State) (p : List Byte) : Changes s (s.mgmtConfigure p).state := by
  refine changes_acceptedIn fun h => ?_
  have hb : s.control.bridge = .quiesced ∧ s.buffer.count .held = 0 := by simpa using h
  exact changes_settle (.after (Change.configures hb.1 hb.2) (changes_offerFresh _))

theorem changes_mgmtHalt (s : State) (p : List Byte) : Changes s (s.mgmtHalt p).state := by
  refine changes_acceptedIn fun h => ?_
  have hb : s.control.bridge ≠ .halted ∧ s.control.bridge ≠ .restarting := by
    simpa [State.notRestarting] using h
  exact changes_settle (changes_enterHalted _ hb.1 hb.2)

theorem changes_mgmtRestart (s : State) (p : List Byte) : Changes s (s.mgmtRestart p).state :=
  changes_acceptedIn fun _ => changes_settle Change.restarts.once

theorem changes_mgmtFlush (s : State) (p : List Byte) : Changes s (s.mgmtFlush p).state :=
  changes_acceptedIn fun _ => changes_settle (changes_closeAll _ _)

theorem changes_mgmtReadEntry (s : State) (i : Nat) (p : List Byte) : Changes s (s.mgmtReadEntry i p).state := by
  refine changes_noPayload ?_
  split <;> exact .none

theorem changes_mgmtReadMaster (s : State) (i : Nat) (p : List Byte) : Changes s (s.mgmtReadMaster i p).state := by
  refine changes_noPayload ?_
  split <;> exact .none

theorem changes_releaseDiscard {s : State} {e : EntryIx} (h : s.buffer.entries[e].state = .held) :
    Changes s (s.releaseDiscard e) := changes_settle (Change.discards e h).once

theorem changes_releaseRetry {s : State} {e : EntryIx} (h : s.buffer.entries[e].state = .held)
    (hr : s.control.bridge.releases = true) : Changes s (s.releaseRetry e) :=
  changes_settle (Change.recommits e _ h hr).once

theorem changes_releaseForce {s : State} {e : EntryIx} (h : s.buffer.entries[e].state = .held)
    (hr : s.control.bridge.releases = true) : Changes s (s.releaseForce e) :=
  changes_settle (Change.recommits e _ h hr).once

theorem changes_mgmtRelease {s : State} {i : Nat} {a : Option (State → EntryIx → State)}
    (h : ∀ f, a = some f → ∀ e, s.buffer.entries[e].state = .held → s.control.bridge.releases = true → Changes s (f s e)) :
    Changes s (s.mgmtRelease i a).state := by
  unfold State.mgmtRelease
  split
  · exact .none
  · next hr =>
    split
    · exact .none
    · next f =>
      split
      · next hi =>
        split
        · next hh => exact h f rfl ⟨i, hi⟩ hh (by simpa using hr)
        · exact .none
      · exact .none

theorem changes_releaseAction (s : State) (i : Nat) (p : List Byte) :
    Changes s (s.mgmtRelease i (releaseAction p)).state := by
  refine changes_mgmtRelease fun f hf e he hr => ?_
  unfold releaseAction at hf
  split at hf
  · split at hf
    · cases hf; exact changes_releaseDiscard he
    · cases hf; exact changes_releaseRetry he hr
    · cases hf; exact changes_releaseForce he hr
    · cases hf
  · cases hf

theorem changes_mgmtFaultPeek (s : State) (p : List Byte) : Changes s (s.mgmtFaultPeek p).state := by
  refine changes_noPayload ?_
  split <;> exact .none

theorem changes_mgmtFaultPop (s : State) (p : List Byte) : Changes s (s.mgmtFaultPop p).state := by
  refine changes_noPayload ?_
  dsimp only
  split
  · next r rs h => exact (Change.popsFault r rs h).once
  · exact .none

theorem changes_mgmtFaultClear (s : State) (p : List Byte) : Changes s (s.mgmtFaultClear p).state :=
  changes_noPayload Change.clearsFaults.once

theorem changes_mgmtNextEvent (s : State) (p : List Byte) : Changes s (s.mgmtNextEvent p).state := by
  refine changes_noPayload ?_
  split
  · next i h => exact (Change.takesEvent i h).once
  · exact .none

theorem changes_mgmtEndService (s : State) (p : List Byte) : Changes s (s.mgmtEndService p).state := by
  refine changes_noPayload ?_
  split
  · exact .none
  · exact Change.endsService.once

theorem changes_mgmtScrubStart (s : State) (p : List Byte) : Changes s (s.mgmtScrubStart p).state := by
  refine changes_acceptedIn fun h => ?_
  show Changes s s.scrubStart
  unfold State.scrubStart
  split
  · exact .none
  · exact (Change.startsScrub (by simpa using h)).once

theorem changes_mgmtScrubStop (s : State) (p : List Byte) : Changes s (s.mgmtScrubStop p).state :=
  changes_acceptedIn fun _ => changes_settle Change.stopsScrub.once

theorem changes_mgmtCommand {s : State} {code arg : Nat} {p : List Byte} {f : State → MgmtResult}
    (h : mgmtCommand code arg p = some f) : Changes s (f s).state := by
  unfold mgmtCommand at h
  split at h <;> cases h
  · exact changes_getItem s arg p
  · exact changes_setItem s arg p
  · exact changes_mgmtStart s p
  · exact changes_mgmtQuiesce s p
  · exact changes_mgmtConfigure s p
  · exact changes_mgmtHalt s p
  · exact changes_mgmtRestart s p
  · exact changes_mgmtFlush s p
  · exact changes_mgmtReadEntry s arg p
  · exact changes_mgmtReadMaster s arg p
  · exact changes_releaseAction s arg p
  · exact changes_mgmtFaultPeek s p
  · exact changes_mgmtFaultPop s p
  · exact changes_mgmtFaultClear s p
  · exact changes_mgmtNextEvent s p
  · exact changes_mgmtEndService s p
  · exact changes_mgmtScrubStart s p
  · exact changes_mgmtScrubStop s p

/-! ## The serial port -/

theorem changes_frameByte (s : State) (bytes : List Byte) : Changes s (s.frameByte bytes) := by
  unfold State.frameByte
  split
  · exact changes_mgmt rfl rfl
  · exact changes_reply _ _ _
  · exact changes_reply _ _ _
  · next f hv =>
    refine changes_replied (Changes.trans (changes_mgmt rfl rfl : Changes s s.frameTaken) ?_)
    unfold frameVerdict at hv
    split at hv
    · split at hv
      · cases hv
      · split at hv
        · cases hv
        · dsimp only at hv
          split at hv
          · cases hv
          · split at hv
            · cases hv
            · next g hg => cases hv; exact changes_mgmtCommand hg
    · cases hv

theorem changes_clock (s : State) (e : Edge) : Changes s (s.clock e) := by
  unfold State.clock
  split
  · exact .none
  · split
    · unfold State.sample
      dsimp only
      split
      · exact changes_mgmt rfl rfl
      · exact changes_frameByte _ _
    · unfold MgmtPort.completeByte
      split <;> exact changes_mgmt rfl rfl
    · exact .none
    · unfold MgmtPort.shiftOut
      split <;> exact changes_mgmt rfl rfl
    · exact changes_mgmt rfl rfl

theorem changes_select (s : State) : Changes s s.select := by
  unfold State.select
  split
  · exact .none
  · exact changes_mgmt rfl rfl

theorem changes_deselect (s : State) : Changes s s.deselect := by
  unfold State.deselect
  refine Changes.trans (t := if s.mgmt.cutOff then s.frameError else s) ?_ (changes_mgmt rfl rfl)
  split
  · exact .after (Change.setsMgmt (s := s) { s.mgmt with frameErrors := saturate Config.byteCountMax s.mgmt.frameErrors }
      (.inl (Nat.min_le_left _ _))) (Change.raises _).once
  · exact .none

theorem changes_deliver (s : State) : Changes s s.deliver := by
  unfold State.deliver
  split
  · exact .none
  · next r rs hr =>
    split
    · exact .none
    · dsimp only
      have h : Changes s ({ s with upstream := { s.upstream with responses := rs } }.wake .slotFreed) := by
        have e : rs = s.upstream.responses.tail := by simp [hr]
        rw [e]
        exact .after (Change.delivers (s := s)) (changes_wake _ _)
      split
      · exact h.more (Change.tagLeaves _ _)
      · exact h

/-! ## Every command -/

/-- Everything a command does is a chain of changes. -/
theorem exec_changes {c : Instr} {s t : State} (h : exec c s = .next t) : Changes s t := by
  cases c with
  | requestArrival r =>
    cases h
    split
    · next ha =>
      refine changes_settle (.after (Change.arrives (s := s) r ha) ?_)
      exact (Change.marks _ (s.upstream.offerDue || s.upstream.intake.isEmpty) s.upstream.busrst).once
    · exact .none
  | powerOnReset => cases h; exact Change.powersOn.once
  | busrstAsserted => cases h; exact changes_settle Change.resetsBus.once
  | busrstDeasserted =>
    cases h
    exact (Change.marks (s := s) s.upstream.headWait s.upstream.offerDue false).once
  | headOffer =>
    cases h
    split
    · next he =>
      simp only [Bool.and_eq_true] at he
      exact changes_settle (changes_offerHead he.1)
    · exact .none
  | responseDelivery => cases h; exact changes_settle (changes_deliver s)
  | readResponsePlaced =>
    cases h
    split
    · next i hg => exact changes_settle (changes_nextGrant hg)
    · exact .none
  | bitopResponsePlaced =>
    cases h
    split
    · next i hg => exact changes_settle (changes_nextGrant hg)
    · exact .none
  | barrierResponsePlaced =>
    cases h
    split
    · next i hg => exact changes_settle (changes_nextGrant hg)
    · exact .none
  | ageExpiry e => cases h; exact changes_ageExpires s e
  | closePendingCommit e => cases h; exact changes_closePendingCommit s e
  | laneDispatch =>
    cases h
    split
    · exact changes_settle (changes_dispatch s)
    · exact .none
  | commandIssue =>
    cases h
    split
    · next hi => exact changes_settle (Change.issues hi).once
    · exact .none
  | arrayDone words => cases h; exact changes_arrayDone s words
  | arrayFault => cases h; exact changes_arrayFault s
  | completionTimeout => cases h; exact changes_completionTimeout s
  | abortIntervalEnd => cases h; exact changes_abortEnd s
  | scrubIntervalExpiry => cases h; exact changes_scrubExpires s
  | quiesceComplete =>
    cases h
    split
    · next hq => exact changes_settle (Change.completesQuiesce hq).once
    · exact .none
  | restartClearing =>
    cases h
    split
    · next hc => exact changes_settle (Change.clears hc).once
    · exact .none
  | mselAssert => cases h; exact changes_select s
  | mselDeassert => cases h; exact changes_deselect s
  | badCheckFrame => cases h; exact changes_reply s _ _
  | getItem i p => cases h; exact changes_execute (changes_getItem s _ p)
  | setItem i p => cases h; exact changes_execute (changes_setItem s _ p)
  | setMemorySize p => cases h; exact changes_execute (changes_setMemorySize s p)
  | setRegion n p => cases h; exact changes_execute (changes_setRegion s n p)
  | setCloseAhead p => cases h; exact changes_execute (changes_setCloseAhead s p)
  | setScrubPosition p => cases h; exact changes_execute (changes_setScrubPosition s p)
  | setCorrectedCount p => cases h; exact changes_execute (changes_setCorrectedCount s p)
  | setFrameErrors p => cases h; exact changes_execute (changes_setFrameErrors s p)
  | setEventEnable p => cases h; exact changes_execute (changes_setEventEnable s p)
  | setEventLevel p => cases h; exact changes_execute (changes_setEventLevel s p)
  | setEventPending p => cases h; exact changes_execute (changes_setEventPending s p)
  | start p => cases h; exact changes_execute (changes_mgmtStart s p)
  | quiesce p => cases h; exact changes_execute (changes_mgmtQuiesce s p)
  | configure p => cases h; exact changes_execute (changes_mgmtConfigure s p)
  | halt p => cases h; exact changes_execute (changes_mgmtHalt s p)
  | restart p => cases h; exact changes_execute (changes_mgmtRestart s p)
  | flush p => cases h; exact changes_execute (changes_mgmtFlush s p)
  | readEntry i p => cases h; exact changes_execute (changes_mgmtReadEntry s _ p)
  | readMaster m p => cases h; exact changes_execute (changes_mgmtReadMaster s _ p)
  | releaseDiscard i =>
    cases h
    exact changes_replied (changes_mgmtRelease fun f hf e he _ => by cases hf; exact changes_releaseDiscard he)
  | releaseRetry i =>
    cases h
    exact changes_replied (changes_mgmtRelease fun f hf e he hr => by cases hf; exact changes_releaseRetry he hr)
  | releaseForce i =>
    cases h
    exact changes_replied (changes_mgmtRelease fun f hf e he hr => by cases hf; exact changes_releaseForce he hr)
  | faultPeek p => cases h; exact changes_execute (changes_mgmtFaultPeek s p)
  | faultPop p => cases h; exact changes_execute (changes_mgmtFaultPop s p)
  | faultClear p => cases h; exact changes_execute (changes_mgmtFaultClear s p)
  | nextEvent p => cases h; exact changes_execute (changes_mgmtNextEvent s p)
  | endService p => cases h; exact changes_execute (changes_mgmtEndService s p)
  | scrubStart p => cases h; exact changes_execute (changes_mgmtScrubStart s p)
  | scrubStop p => cases h; exact changes_execute (changes_mgmtScrubStop s p)
  | mckEdge e => cases h; exact changes_clock s e
  | disregardedCompletion c =>
    cases h
    cases c with
    | done words => exact changes_arrayDone s words
    | fault => exact changes_arrayFault s
  | badCommandFrame => cases h; exact changes_reply s _ _

/-- What every change keeps, and taking a command off the queue keeps, every step keeps. -/
theorem step_keeps {P : State → Prop} (hc : ∀ s t, Change s t → P s → P t)
    (hq : ∀ s rest, P s → P { s with pending := rest }) {s t : State} (h : step s = .next t) (p : P s) : P t := by
  unfold step at h
  split at h
  · next c rest _ => exact (exec_changes h).keeps hc (hq _ _ p)
  · rw [← Host.Outcome.next.inj h]; exact (changes_microsecond s).keeps hc p

end Sys2Proof.Machine
end

