-- ==== Sys2Proof/Laws/Management.lean ====
section
/-! SUPPORT. What the shared checks of the management commands answer (R175, R179, R101): one lemma for each outcome. -/
namespace Sys2Proof.Machine

theorem MgmtResult.replied_refused (s : State) (st : MgmtStatus) : (s.refused st).replied = s.reply st [] := rfl
theorem MgmtResult.replied_okay (s : State) : s.okay.replied = s.reply .ok [] := rfl
theorem MgmtResult.replied_answers (s : State) (d : List Byte) : (s.answers d).replied = s.reply .ok d := rfl

/-- A frame with an acceptable length is executed. -/
theorem State.execute_of_le {s : State} {p : List Byte} {f : State → MgmtResult} (h : p.length ≤ 40) :
    s.execute p f = (f s).replied := if_pos h

/-- A frame whose length is above 40 is answered BAD-CHECK. -/
theorem State.execute_of_lt {s : State} {p : List Byte} {f : State → MgmtResult} (h : 40 < p.length) :
    s.execute p f = s.reply .badCheck [] := if_neg (Nat.not_le.mpr h)

theorem State.execute_nil (s : State) (f : State → MgmtResult) : s.execute [] f = (f s).replied := rfl

theorem State.noPayload_nil (s : State) (f : State → MgmtResult) : s.noPayload [] f = f s := rfl

theorem State.noPayload_of_ne {s : State} {p : List Byte} {f : State → MgmtResult} (h : p ≠ []) :
    s.noPayload p f = s.refused .badValue := by
  cases p with
  | nil => exact absurd rfl h
  | cons b bs => rfl

theorem State.acceptedIn_false (s : State) (p : List Byte) (f : State → MgmtResult) :
    s.acceptedIn false p f = s.refused .badState := rfl

theorem State.acceptedIn_true (s : State) (p : List Byte) (f : State → MgmtResult) :
    s.acceptedIn true p f = s.noPayload p f := rfl

theorem State.writeItem_false (s : State) (len : Nat) (r : Nat → Bool) (p : List Byte) (f : Nat → State) :
    s.writeItem false len r p f = s.refused .badState := rfl

theorem State.writeItem_stores {s : State} {len : Nat} {r : Nat → Bool} {p : List Byte} {f : Nat → State}
    (h : p.length = len) (hr : r (leValue p) = true) : s.writeItem true len r p f = (f (leValue p)).okay := by
  simp [State.writeItem, h, hr]

theorem State.writeItem_badValue {s : State} {len : Nat} {r : Nat → Bool} {p : List Byte} {f : Nat → State}
    (h : ¬(p.length = len ∧ r (leValue p) = true)) : s.writeItem true len r p f = s.refused .badValue := by
  simp only [State.writeItem, Bool.true_eq_false, if_false, if_neg h]

/-- RELEASE of a HELD entry in a state that accepts it. -/
theorem State.mgmtRelease_held {s : State} {e : EntryIx} {f : State → EntryIx → State}
    (hb : s.control.bridge.releases = true) (hs : s.buffer.entries[e].state = .held) :
    s.mgmtRelease e.val (some f) = (f s e).okay := by
  have hs' : s.buffer.entries[e.val].state = .held := hs
  simp only [State.mgmtRelease, hb, Bool.true_eq_false, if_false, e.isLt, dite_true, hs', if_true]

theorem State.mgmtRelease_notHeld {s : State} {e : EntryIx} {f : State → EntryIx → State}
    (hb : s.control.bridge.releases = true) (hs : s.buffer.entries[e].state ≠ .held) :
    s.mgmtRelease e.val (some f) = s.refused .notHeld := by
  have hs' : s.buffer.entries[e.val].state ≠ .held := hs
  simp only [State.mgmtRelease, hb, Bool.true_eq_false, if_false, e.isLt, dite_true, hs']

theorem State.mgmtRelease_badIndex {s : State} {i : Nat} {f : State → EntryIx → State}
    (hb : s.control.bridge.releases = true) (hi : 16 ≤ i) : s.mgmtRelease i (some f) = s.refused .badValue := by
  simp only [State.mgmtRelease, hb, Bool.true_eq_false, if_false, Nat.not_lt.mpr hi, dite_false]

theorem State.mgmtRelease_badState {s : State} {i : Nat} {a : Option (State → EntryIx → State)}
    (hb : s.control.bridge.releases = false) : s.mgmtRelease i a = s.refused .badState := by
  simp only [State.mgmtRelease, hb, if_true]

end Sys2Proof.Machine
end

