-- ==== Sys2Proof/Laws/Serial.lean ====
section
/-! SUPPORT. What the serial frame engine does with the bits and bytes of a command frame (R174-R176): a bit is kept, the
eighth completes a byte, and a byte goes on or ends the frame. -/
namespace Sys2Proof.Machine

theorem byteOfBits_bits : ∀ b : Byte, byteOfBits ((List.range 8).map fun k => b.getLsbD (7 - k)) = b := by decide +kernel

/-- Bits that do not complete a byte are kept. -/
theorem State.clock_bits (l : List Bool) {s : State} (hm : s.mgmt.msel = true) (hc : s.mgmt.condition = .command)
    (h : s.mgmt.bits.length + l.length < 8) :
    l.foldl (fun t b => t.clock (.rising b)) s = { s with mgmt := { s.mgmt with bits := s.mgmt.bits ++ l } } := by
  induction l generalizing s with
  | nil => simp
  | cons b l ih =>
    simp only [List.length_cons] at h
    have h1 : s.mgmt.bits.length + 1 < 8 := by omega
    have hb : s.clock (.rising b) = { s with mgmt := { s.mgmt with bits := s.mgmt.bits ++ [b] } } := by
      simp [State.clock, hm, hc, State.sample, h1]
    rw [List.foldl_cons, hb]
    refine (ih (s := { s with mgmt := { s.mgmt with bits := s.mgmt.bits ++ [b] } }) hm hc (by simp; omega)).trans ?_
    simp

/-- The eighth bit completes the byte. -/
theorem State.clock_lastBit {s : State} {b : Bool} (hm : s.mgmt.msel = true) (hc : s.mgmt.condition = .command)
    (hl : s.mgmt.bits.length = 7) :
    s.clock (.rising b) = s.frameByte (s.mgmt.bytes ++ [byteOfBits (s.mgmt.bits ++ [b])]) := by
  simp [State.clock, hm, hc, State.sample, hl]

/-- Eight rising edges in COMMAND complete a byte, most significant bit first. -/
theorem State.clock_byte {s : State} (hm : s.mgmt.msel = true) (hc : s.mgmt.condition = .command) (hb : s.mgmt.bits = [])
    (b : Byte) :
    ((List.range 8).map fun k => b.getLsbD (7 - k)).foldl (fun t bit => t.clock (.rising bit)) s =
      { s with mgmt := { s.mgmt with bits := (List.range 7).map fun k => b.getLsbD (7 - k) } }.frameByte
        (s.mgmt.bytes ++ [b]) := by
  have h8 : ((List.range 8).map fun k => b.getLsbD (7 - k)) =
      ((List.range 7).map fun k => b.getLsbD (7 - k)) ++ [b.getLsbD 0] := rfl
  have last : byteOfBits (((List.range 7).map fun k => b.getLsbD (7 - k)) ++ [b.getLsbD 0]) = b := by
    rw [← h8, byteOfBits_bits]
  rw [h8, List.foldl_append, State.clock_bits _ hm hc (by simp [hb]), List.foldl_cons, List.foldl_nil]
  refine (State.clock_lastBit (s := { s with mgmt := { s.mgmt with
    bits := s.mgmt.bits ++ (List.range 7).map fun k => b.getLsbD (7 - k) } }) hm hc (by simp [hb])).trans ?_
  simp only [hb, List.nil_append, last]

/-- A byte after which the frame is not complete is kept. -/
theorem State.frameByte_incomplete {s : State} {bytes : List Byte} (h : frameVerdict bytes = .incomplete) :
    s.frameByte bytes = { s with mgmt := { s.mgmt with bytes := bytes, bits := [] } } := by
  simp only [State.frameByte, h]

/-- A complete command runs on the state without the frame's bytes. -/
theorem State.frameByte_command {s : State} {bytes : List Byte} {f : State → MgmtResult}
    (h : frameVerdict bytes = .command f) : s.frameByte bytes = (f s.frameTaken).replied := by
  simp only [State.frameByte, h]

/-- The bytes of a frame are kept until it is complete (R175): each proper beginning is incomplete. -/
theorem State.clock_bytes (l : List Byte) {s : State} (hm : s.mgmt.msel = true) (hc : s.mgmt.condition = .command)
    (hb : s.mgmt.bits = []) (h : ∀ n, n ≤ l.length → frameVerdict (s.mgmt.bytes ++ l.take n) = .incomplete) :
    (l.flatMap fun b => (List.range 8).map fun k => b.getLsbD (7 - k)).foldl (fun t bit => t.clock (.rising bit)) s =
      { s with mgmt := { s.mgmt with bytes := s.mgmt.bytes ++ l } } := by
  induction l generalizing s with
  | nil => simp
  | cons b l ih =>
    have h1 := h 1 (by simp)
    simp only [List.take_succ_cons, List.take_zero] at h1
    rw [List.flatMap_cons, List.foldl_append, State.clock_byte hm hc hb, State.frameByte_incomplete h1]
    refine (ih (s := { s with mgmt := { s.mgmt with bytes := s.mgmt.bytes ++ [b], bits := [] } }) hm hc rfl ?_).trans ?_
    · intro n hn
      have := h (n + 1) (by simpa using hn)
      simpa using this
    · simp [hb]

end Sys2Proof.Machine
end

