-- ==== Sys2Proof/WellFormed.lean ====
section
/-! DEFINITION. Which command terms the manual's fields hold: a request's count is 1 to 32 (R134), and a command frame's
payload is at most 40 bytes (R175). No meaning rests on these checks: a term outside them is answered too, with MISALIGNED or
BAD-CHECK (log entries 6, 15). -/
namespace Sys2Proof

/-- The number of bytes a request names; a BARRIER names none (R134). -/
def Request.count : Request → Nat
  | .read _ _ _ n => n
  | .write _ _ _ d => d.length
  | .bitOp _ _ _ _ d => d.length
  | .barrier _ _ => 0

/-- The counts of R134's table: 1 to 32 for all kinds except BARRIER. -/
def Request.wf : Request → Bool
  | .read _ _ _ n => decide (1 ≤ n ∧ n ≤ 32)
  | .write _ _ _ d => decide (1 ≤ d.length ∧ d.length ≤ 32)
  | .bitOp _ _ _ _ d => decide (1 ≤ d.length ∧ d.length ≤ 32)
  | .barrier _ _ => true

/-- A payload a complete, accepted command frame can hold (R175). -/
def payloadWf (p : List Byte) : Bool := decide (p.length ≤ Config.maxPayload)

/-- Every check a command term must pass. -/
def Instr.wf : Instr → Bool
  | .requestArrival r => r.wf
  | .getItem _ p | .setItem _ p | .setMemorySize p | .setRegion _ p | .setCloseAhead p | .setScrubPosition p
  | .setCorrectedCount p | .setFrameErrors p | .setEventEnable p | .setEventLevel p | .setEventPending p
  | .start p | .quiesce p | .configure p | .halt p | .restart p | .flush p | .readEntry _ p | .readMaster _ p
  | .faultPeek p | .faultPop p | .faultClear p | .nextEvent p | .endService p | .scrubStart p | .scrubStop p =>
      payloadWf p
  | .powerOnReset | .busrstAsserted | .busrstDeasserted | .headOffer | .responseDelivery | .readResponsePlaced
  | .bitopResponsePlaced | .barrierResponsePlaced | .ageExpiry _ | .closePendingCommit _ | .laneDispatch
  | .commandIssue | .arrayDone _ | .arrayFault | .completionTimeout | .abortIntervalEnd | .scrubIntervalExpiry
  | .quiesceComplete | .restartClearing | .mselAssert | .mselDeassert | .badCheckFrame | .releaseDiscard _
  | .releaseRetry _ | .releaseForce _ | .mckEdge _ | .disregardedCompletion _ | .badCommandFrame => true

end Sys2Proof
end

