-- ==== Sys2Proof/Tests/Slice0.lean ====
section
/-! SUPPORT. Small tests of the model on concrete states, and for every obligation with hypotheses a concrete state and operands
that meet them, clause by clause (the theorems `test_meets_…`). -/
namespace Sys2Proof.Tests
open Sys2Proof.Machine
set_option Elab.async false

/-! ## Concrete states -/

def inState (b : BridgeState) : State :=
  { State.reset with control := ⟨b, if b = .halted then some .command else none⟩ }

def window (a : Attr) : Region := ⟨true, 0, 0, 0, a, 255⟩

def oneWindow (a : Attr) : RegionMap := ⟨1, (Vector.replicate 8 Region.reset).set 0 (window a)⟩

/-- RUN, with one COMBINE window over the upstream addresses 0 to 4095. -/
def running : State := { inState .run with regionMap := oneWindow .combine }

def asks (s : State) (q : Request) : State := { s with upstream := { s.upstream with intake := [q] } }

def holds (n : Nat) (s : State) : State :=
  { s with upstream := { s.upstream with responses := List.replicate n (.refused 0 0 .busy) } }

def entry (st : EntryState) (L : Nat) (v : PosSet) : Entry :=
  { Entry.free with
    state := st, line := some L, valid := v, contributors := 1, openedOrder := some 0
    heldReason := if st = .held then some .timeout else none }

def put (s : State) (e : EntryIx) (x : Entry) : State :=
  { s with buffer := { s.buffer with
      entries := s.buffer.entries.set e x
      openOrder := if x.state = .opened then s.buffer.openOrder ++ [e] else s.buffer.openOrder } }

def putAll (s : State) (x : Entry) : State :=
  { s with buffer := { s.buffer with entries := Vector.replicate 16 x } }

def lists (s : State) (ops : List Operation) : State := { s with opList := ⟨ops, 0⟩ }

def portAt (s : State) (c : PortCondition) : State := s.setPort c

def clean : Vector ReadWord 4 := Vector.replicate 4 ⟨0, .clean⟩
def badWord (w : WordIx) : Vector ReadWord 4 := clean.set w ⟨0, .uncorrectable⟩
def fixedWord (w : WordIx) : Vector ReadWord 4 := clean.set w ⟨0, .corrected 5⟩

def readReq : ReadReq := ⟨1, 2, 5, 0, 32, 0, Vector.replicate 32 0⟩
def bitReq : BitReq := ⟨1, 2, .setBits, 5, 0, 0, [255]⟩
def reading : InProgress := ⟨0, .lineRead, 5, 1, 1⟩
def writing : InProgress := ⟨0, .lineWrite (Vector.replicate 4 0), 5, 1, 0⟩

/-- Entry 0 DRAINING on lane 0 and entry 1 its close-pending successor, with a barrier of master 0 waiting for both. -/
def draining : State :=
  let s := put (put running 0 (entry .draining 5 1)) 1 { entry .opened 5 2 with closePending := true }
  { s with
    opList := ⟨[⟨.drain .mergeWrite 0, 5, 0, .inFlight 0⟩], 1⟩
    lanes := s.lanes.set 0 (.busy .readWait)
    port := { s.port with condition := .issued reading 20 }
    masters := s.masters.set 0 { MasterCtx.reset with barrier := some ⟨3, 3⟩ } }

def selected (s : State) (c : FrameCondition) : State := { s with mgmt := { s.mgmt with msel := true, condition := c } }

/-! ## Terms the checks refuse (R134, R175) -/

theorem test_count_out_of_range : Request.wf (.read 0 0 0 0) = false ∧ Request.wf (.read 0 0 0 33) = false ∧
    Request.wf (.write 0 0 0 []) = false ∧ Request.wf (.write 0 0 0 (List.replicate 33 0)) = false ∧
    Request.wf (.bitOp .setBits 0 0 0 []) = false ∧ Request.wf (.read 0 0 0 32) = true ∧
    Instr.wf (.requestArrival (.read 0 0 0 33)) = false := by decide

theorem test_payload_out_of_range : Instr.wf (.flush (List.replicate 41 0)) = false ∧
    Instr.wf (.getItem 0 (List.replicate 41 0)) = false ∧ Instr.wf (.setRegion 0 (List.replicate 40 0)) = true := by decide

theorem test_no_word_spells_a_command : decodeTableWord 32 5 = none := rfl

/-! ## Values the manual works out -/

/-- The columns have one, three or five 1-bits, all 72 differ, and position 55 has column 224 (R117). -/
theorem test_columns : columns.length = 72 ∧ columns.Nodup ∧ columns[55]? = some 224 ∧ columns[56]? = some 31 := by
  decide +kernel

/-- R176's examples. -/
theorem test_crc8 : crc8 [1, 0, 0] = 107 ∧ crc8 [1] = 7 := by decide +kernel

/-- IDENTITY (R182). -/
theorem test_identity : State.reset.itemValue 0 = some [23, 192, 15, 1] := by decide +kernel

/-- The commands taken one after the other. -/
def after (s : State) (cs : List Instr) : State :=
  cs.foldl (fun s c => match exec c s with
    | .next t => t
    | _ => s) s

/-- The status byte of the reply in the port (R178). -/
def status (s : State) : Nat := (s.mgmt.response.getD 1 255).toNat

/-- Validation reports the first check that fails (R14). -/
theorem test_validation : (oneWindow .combine).validate = none ∧
    (⟨0, (oneWindow .combine).regions⟩ : RegionMap).validate = some .noCapacity ∧
    (⟨1, Vector.replicate 8 Region.reset⟩ : RegionMap).validate = some .noRegion ∧
    (⟨1, Vector.replicate 8 (window .direct)⟩ : RegionMap).validate = some (.overlap 0 1) ∧
    (⟨1, Vector.replicate 8 { window .direct with base := 4096, sizeCode := 1 }⟩ : RegionMap).validate =
      some (.baseAlignment 0) ∧
    (⟨1, Vector.replicate 8 { window .direct with offset := 65536 }⟩ : RegionMap).validate =
      some (.beyondCapacity 0) := by decide +kernel

/-- 01's worked example: a region set and its lookups. -/
def exampleMap : RegionMap := ⟨10, #v[⟨true, 0, 12, 0, .combine, 15⟩, ⟨true, 16777216, 11, 16777216, .direct, 255⟩,
  ⟨true, 67108864, 12, 0, .readOnly, 240⟩, ⟨true, 100663296, 8, 25165824, .closed, 0⟩, Region.reset, Region.reset,
  Region.reset, Region.reset]⟩

theorem test_lookup_example : exampleMap.validate = none ∧
    exampleMap.lookup 2 true 16777316 = .mapped 16777316 1 .direct ∧
    exampleMap.lookup 5 false 67117064 = .mapped 8200 2 .readOnly ∧
    exampleMap.lookup 1 false 8200 = .mapped 8200 0 .combine ∧
    exampleMap.lookup 5 true 67117064 = .denied 2 .readOnly ∧ exampleMap.lookup 5 false 1000 = .denied 0 .master ∧
    exampleMap.lookup 0 false 100663306 = .denied 3 .closed ∧ exampleMap.lookup 4 false 41943040 = .unmapped := by
  decide +kernel

/-- 07's worked example: classifying four read words. -/
theorem test_classify_example :
    let w := encodeWord 81985529216486895;
    classify w = ⟨81985529216486895, .clean⟩ ∧
    classify (w ^^^ BitVec.twoPow 72 1) = ⟨81985529216486895, .corrected 1⟩ ∧
    classify (w ^^^ BitVec.twoPow 72 67) = ⟨81985529216486895, .corrected 67⟩ ∧
    (classify (w ^^^ BitVec.twoPow 72 0 ^^^ BitVec.twoPow 72 4)).cls = .uncorrectable := by decide +kernel

/-- 12's worked example, exchanges 1 to 5, 14 and 15. -/
theorem test_power_on_exchanges :
    status (after State.reset [.start []]) = 6 ∧ status (after State.reset [.setMemorySize [12]]) = 4 ∧
    (after State.reset [.setMemorySize [7]]).capacityLines = 131072 ∧ status (after running [.setItem 13 [30]]) = 5 ∧
    (after (State.reset.raise .mgmtError) [.nextEvent []]).events.stack = [.routine] ∧
    (after (State.reset.raise .mgmtError) [.nextEvent []]).mgmt.response.getD 3 0 = 12 := by decide +kernel

/-- 11's worked example: sources 2, 3, 5 and 10 pending behind [ROUTINE, URGENT]. -/
def nested : State := { State.reset with events := ⟨534, 2559, 15, [.routine, .urgent], false⟩ }

theorem test_event_nesting :
    let s8 := after nested [.endService []];
    let s9 := after s8 [.nextEvent []];
    let s13 := after s9 [.endService [], .nextEvent [], .endService [], .endService []];
    let s14 := after s13 [.nextEvent []];
    let s17 := after s14 [.endService [], .setEventEnable [255, 11]];
    let s18 := after s17 [.setEventPending [0, 2]];
    s8.events = ⟨534, 2559, 15, [.routine], true⟩ ∧ s9.events = ⟨532, 2559, 15, [.routine, .urgent], false⟩ ∧
    s13.events = ⟨528, 2559, 15, [], true⟩ ∧ s14.events = ⟨512, 2559, 15, [.routine], false⟩ ∧
    s17.events = ⟨512, 3071, 15, [], true⟩ ∧ s18.events = ⟨0, 3071, 15, [], false⟩ := by decide +kernel

/-- A WRITE is allocated and the READ that follows is answered from the overlay (R23, R63). -/
theorem test_write_then_read :
    let s := after running [.requestArrival (.write 2 0 64 [17, 34]), .requestArrival (.read 2 1 65 1)];
    s.upstream.responses = [.data 2 1 .ok [34]] ∧ s.buffer.freeCount = 15 := by decide +kernel

/-- A written entry is flushed, drained and freed (R32, R51, R58). -/
theorem test_flush_drains :
    let s := after running [.requestArrival (.write 2 0 64 [17]), .flush []];
    let t := after s [.arrayDone (Vector.replicate 4 0)];
    let u := after t [.arrayDone (Vector.replicate 4 0)];
    s.port.condition = .issued ⟨0, .lineRead, 2, 1, 1⟩ 20 ∧
    t.port.condition = .issued ⟨0, .lineWrite #v[encodeWord 17, 0, 0, 0], 2, 1, 1⟩ 20 ∧ u.buffer.freeCount = 16 ∧
    u.lanes = Vector.replicate 4 .idle := by decide +kernel

/-- A MERGE-WRITE whose read fails leaves its line HELD, and RELEASE DISCARD frees it (R96, R102). -/
theorem test_held_and_released :
    let s := after running [.requestArrival (.write 2 0 64 [17]), .flush [], .arrayFault];
    let t := after s [.releaseDiscard 0];
    s.buffer.heldEntry 2 = some 0 ∧ s.masters[2].deferred = some ⟨.lineHeld, 0⟩ ∧ s.events.alert = true ∧
    status (after s [.releaseForce 1]) = 7 ∧ t.buffer.freeCount = 16 ∧ status t = 0 := by decide +kernel

/-! ## States that meet the hypotheses of the obligations -/

def ageing : State :=
  { put running 0 { entry .opened 5 1 with ageTimer := some 2 } with scrub := ⟨true, some 2, 0, 0, 1000⟩ }

theorem test_meets_StepRunsTheFrontCommand :
    { running with pending := [.headOffer, .flush []] }.pending = .headOffer :: [.flush []] := rfl

theorem test_meets_QuietMicrosecondRunsTheTimers :
    let s := portAt ageing (.issued reading 2);
    let t := portAt ageing (.aborting none 2);
    (s.pending = [] ∧ (∀ c n, s.port.condition = .issued c n → 2 ≤ n) ∧
      (∀ r n, s.port.condition = .aborting r n → 2 ≤ n) ∧
      (∀ e : EntryIx, ∀ n, s.buffer.entries[e].ageTimer = some n → 2 ≤ n) ∧ ∀ n, s.scrub.timer = some n → 2 ≤ n) ∧
    (t.pending = [] ∧ (∀ c n, t.port.condition = .issued c n → 2 ≤ n) ∧
      (∀ r n, t.port.condition = .aborting r n → 2 ≤ n) ∧
      (∀ e : EntryIx, ∀ n, t.buffer.entries[e].ageTimer = some n → 2 ≤ n) ∧ ∀ n, t.scrub.timer = some n → 2 ≤ n) := by
  refine ⟨⟨rfl, ?_, ?_, ?_, ?_⟩, rfl, ?_, ?_, ?_, ?_⟩
  · intro c n h; cases h; decide
  · intro r n h; cases h
  · intro e n h; fin_cases e <;> first | (cases h; decide) | cases h
  · intro n h; cases h; decide
  · intro c n h; cases h
  · intro r n h; cases h; decide
  · intro e n h; fin_cases e <;> first | (cases h; decide) | cases h
  · intro n h; cases h; decide

/-- A timer at 1 runs out in the microsecond: the entry commits, the issued read times out, the SCRUB is appended (log entry
4). -/
theorem test_timers_run_out :
    let one := { put running 0 { entry .opened 5 1 with ageTimer := some 1 } with scrub := ⟨true, some 1, 0, 0, 1000⟩ };
    let s := portAt one (.issued reading 1);
    let t := s.microsecond;
    s.pending = [] ∧ t.buffer.entries[(0 : EntryIx)].state = .draining ∧
    t.port.condition = .aborting (some { reading with retries := 0 }) 1 ∧ t.scrub = ⟨true, some 1000, 1, 0, 1000⟩ ∧
    (portAt one (.aborting none 1)).microsecond.port.condition = .issued ⟨0, .lineRead, 5, 1, 1⟩ 20 := by decide +kernel

theorem test_meets_CommandsKeepTheQueue : ∃ t, exec (.flush []) running = .next t := ⟨_, rfl⟩

/-- The invariants' hypotheses: `draining` keeps every law, and steps. -/
theorem test_meets_line_law : draining.buffer.lineLaw ∧ ∃ t, Machine.step draining = .next t :=
  ⟨by unfold CombineBuffer.lineLaw; decide +kernel, _, rfl⟩

theorem test_meets_open_order_law : draining.buffer.openOrderLaw :=
  by unfold CombineBuffer.openOrderLaw; decide +kernel

theorem test_meets_entry_law : draining.buffer.entryLaw ∧ draining.upstream.queueLaw := by
  unfold CombineBuffer.entryLaw Upstream.queueLaw; decide +kernel

theorem test_meets_line_lock : draining.opList.lineLock ∧ draining.scrubLaw := by
  refine ⟨fun i j a b hi hj hlt _ => ?_, by unfold State.scrubLaw; decide +kernel⟩
  have hj' : j < 1 := (List.getElem?_eq_some_iff.mp hj).1
  omega

theorem test_meets_drain_law : draining.drainLaw ∧ draining.laneLaw := by
  refine ⟨fun e => ?_, by unfold State.laneLaw; decide +kernel⟩
  fin_cases e <;> rfl

theorem test_meets_wait_set_law : draining.waitSetLaw := by
  intro m e b h
  fin_cases m <;> first | (cases h; revert e; decide +kernel) | cases h

theorem test_meets_bridge_laws :
    draining.configLaw ∧ draining.quiescedLaw ∧ draining.scrubTimerLaw ∧ draining.control.causeLaw := by
  refine ⟨nofun, nofun, ?_, nofun, nofun⟩
  unfold State.scrubTimerLaw; decide +kernel

theorem test_meets_event_laws :
    draining.events.alertLaw ∧ draining.events.stackLaw ∧ draining.events.haltSourceLaw := by
  unfold EventUnit.alertLaw EventUnit.stackLaw EventUnit.haltSourceLaw; decide +kernel

theorem test_meets_count_laws : draining.faults.sizeLaw ∧ draining.countLaw ∧ draining.port.abortLaw := by
  refine ⟨by unfold FaultQueue.sizeLaw; decide +kernel, ⟨by decide +kernel, by decide +kernel, by decide +kernel, ?_⟩,
    by unfold ArrayPort.abortLaw; decide +kernel⟩
  intro m d h
  fin_cases m <;> cases h

def fullIntake : State := { running with upstream := { running.upstream with intake := List.replicate 8 (.barrier 0 0) } }
def sevenAsked : State := { running with upstream := { running.upstream with intake := List.replicate 7 (.barrier 0 0) } }

theorem test_meets_SettleLeavesNothingDue : fullIntake.upstream.intake.length ≤ 8 := by decide

theorem test_meets_PinLevelsAreTakenUp :
    State.reset.mgmt.msel = false ∧ (selected running .command).mgmt.msel = true ∧
    (let g := { (selected running .command).mgmt with bits := [true] };
      g.condition = .command ∧ (g.bytes ≠ [] ∨ g.bits ≠ [])) ∧
    (let g := { (selected running .command).mgmt with bytes := [1] };
      g.condition = .command ∧ (g.bytes ≠ [] ∨ g.bits ≠ [])) ∧
    (let g := (selected running .reply).mgmt;
      ¬(g.condition = .command ∧ (g.bytes ≠ [] ∨ g.bits ≠ []))) := by decide +kernel

theorem test_meets_ArrivalsJoinTheIntake :
    (sevenAsked.upstream.intake.length < 8 ∧ sevenAsked.control.bridge ≠ .restarting ∧
      sevenAsked.upstream.busrst = false) ∧ 8 ≤ fullIntake.upstream.intake.length ∧
    (inState .restarting).control.bridge = .restarting ∧ { running.upstream with busrst := true }.busrst = true ∧
    (running.headWaits (.bitOp 5)).upstream.headWait = .bitOp 5 ∧
    (running.headWaits (.slot (some 5))).upstream.headWait = .slot (some 5) ∧
    (running.headWaits .barrier).upstream.headWait = .barrier ∧
    (running.headWaits (.freeEntry true)).upstream.headWait = .freeEntry true := by decide +kernel

def tagged (s : State) (m : MasterIx) (t : Tag) : State := s.addTag m t

theorem test_meets_NonWritesAreRefused :
    let r := asks (inState .config) (.read 1 2 64 4);
    let b := asks (inState .halted) (.bitOp .flipBits 1 2 64 [1]);
    let c := asks (tagged running 1 2) (.barrier 1 2);
    (r.upstream.intake = .read 1 2 64 4 :: [] ∧ r.upstream.busrst = false ∧ r.control.bridge = .config ∧
      (holds 15 r).upstream.responses.length < 16 ∧ 16 ≤ (holds 16 r).upstream.responses.length) ∧
    (b.upstream.intake = .bitOp .flipBits 1 2 64 [1] :: [] ∧ b.upstream.busrst = false ∧ b.control.bridge = .halted) ∧
    (c.upstream.intake = .barrier 1 2 :: [] ∧ c.upstream.busrst = false ∧ c.control.bridge = .run ∧
      c.masters[1].tags.getLsbD (2 : Tag) = true) := by decide +kernel

/-- Checks 3 to 5: counts of 0, spans that just leave their line or word, no window, and a window that denies. -/
theorem test_meets_NonWritesAreRefused_by_address :
    let aligned (unit : Nat) (b : UpAddr) (n : Nat) := 1 ≤ n ∧ b.toNat % unit + n ≤ unit;
    (¬aligned 32 64 0 ∧ ¬aligned 32 65 32 ∧ aligned 32 64 32) ∧ (¬aligned 8 64 0 ∧ ¬aligned 8 65 8 ∧ aligned 8 64 8) ∧
    (running.control.bridge = .run ∧ ¬running.masters[1].tags.getLsbD (2 : Tag) = true) ∧
    running.regionMap.lookup 1 false 4096 = .unmapped ∧ (oneWindow .readOnly).lookup 1 true 64 = .denied 0 .readOnly ∧
    (oneWindow .closed).lookup 1 false 64 = .denied 0 .closed := by decide +kernel

/-- A bit operation with a count of 0 arrives and is refused with MISALIGNED at the head (R76). -/
theorem test_count_zero_is_misaligned :
    (after running [.requestArrival (.bitOp .setBits 1 2 64 [])]).upstream.responses = [.refused 1 2 .misaligned] ∧
    (after running [.requestArrival (.read 1 2 64 33)]).upstream.responses = [.refused 1 2 .misaligned] := by
  decide +kernel

theorem test_meets_RefusedWritesAreRecorded :
    let w (a : UpAddr) (n : Nat) := Request.write 1 0 a (List.replicate n 7);
    ((asks (inState .halted) (w 64 1)).control.bridge = .halted ∧
      (asks (inState .halted) (w 64 1)).upstream.intake = w 64 1 :: []) ∧
    (running.control.bridge = .run ∧
      ¬(1 ≤ (List.replicate 32 (7 : Byte)).length ∧ (65 : UpAddr).toNat % 32 + (List.replicate 32 (7 : Byte)).length ≤ 32) ∧
      ¬1 ≤ ([] : List Byte).length) ∧
    (1 ≤ (List.replicate 32 (7 : Byte)).length ∧ (4096 : UpAddr).toNat % 32 + 32 ≤ 32 ∧ running.regionMap.lookup 1 true 4096 = .unmapped) ∧
    (oneWindow .readOnly).lookup 1 true 4095 = .denied 0 .readOnly ∧
    (oneWindow .closed).lookup 1 true 0 = .denied 0 .closed := by decide +kernel

theorem test_meets_WritesMergeIntoTheOpenEntry :
    let s := asks (put running 3 (entry .opened 2 1)) (.write 1 0 64 (List.replicate 32 7));
    s.upstream.intake = .write 1 0 64 (List.replicate 32 7) :: [] ∧ s.upstream.busrst = false ∧ s.control.bridge = .run ∧
      (64 : UpAddr).toNat % 32 + (List.replicate 32 (7 : Byte)).length ≤ 32 ∧
      s.regionMap.lookup 1 true 64 = .mapped 64 0 .combine ∧ s.buffer.openEntry (64 / 32) = some 3 := by decide +kernel

theorem test_meets_WritesAllocateAbsorbOrWait :
    let ask (s : State) := asks s (.write 1 0 64 [7]);
    let held := ask (put running 3 (entry .held 2 1));
    let one := ask (put (putAll running (entry .committed 9 1)) 4 Entry.free);
    let none := ask (putAll running (entry .committed 9 1));
    let stuck := ask (putAll running (entry .held 9 1));
    running.regionMap.lookup 1 true 64 = .mapped 64 0 .combine ∧
    (held.buffer.openEntry 2 = .none ∧ held.buffer.heldEntry 2 = some 3) ∧
    (one.buffer.openEntry 2 = .none ∧ one.buffer.heldEntry 2 = .none ∧ one.buffer.entries[(4 : EntryIx)].state = .free ∧
      ∀ i : EntryIx, i < 4 → one.buffer.entries[i].state ≠ .free) ∧
    (none.buffer.openEntry 2 = .none ∧ none.buffer.heldEntry 2 = .none ∧
      (∀ e : EntryIx, none.buffer.entries[e].state ≠ .free) ∧ ∃ e : EntryIx, none.buffer.entries[e].state ≠ .held) ∧
    (stuck.buffer.openEntry 2 = .none ∧ stuck.buffer.heldEntry 2 = .none ∧
      ∀ e : EntryIx, stuck.buffer.entries[e].state = .held) := by decide +kernel

def noReads (s : State) : State := { s with reads := Vector.replicate 8 (.ready readReq .ok []) }

theorem test_meets_ReadsAreAnsweredOrTaken :
    let s := asks (put running 3 (entry .opened 2 1)) (.read 1 2 64 1);
    let u := asks (put running 3 (entry .opened 2 1)) (.read 1 2 64 32);
    let o := s.buffer.overlay (64 / 32);
    (s.upstream.intake = .read 1 2 64 1 :: [] ∧ s.upstream.busrst = false ∧ s.control.bridge = .run ∧
      s.masters[1].tags.getLsbD (2 : Tag) = false ∧ (64 : UpAddr).toNat % 32 + 32 ≤ 32 ∧
      s.regionMap.lookup 1 false 64 = .mapped 64 0 .combine) ∧
    (spanSet (64 % 32) 1 &&& ~~~o.1 = 0 ∧ (holds 15 s).upstream.responses.length < 16 ∧
      16 ≤ (holds 16 s).upstream.responses.length) ∧
    (¬spanSet (64 % 32) 32 &&& ~~~o.1 = 0 ∧ u.reads[(0 : ReadIx)] = .free ∧
      (∀ i : ReadIx, i < 0 → u.reads[i] ≠ .free) ∧ ∀ r : ReadIx, (noReads u).reads[r] ≠ .free) := by decide +kernel

/-- A QUEUED fill of the line with 7 readers is joined; without one, or with 8 readers, a fill is queued. -/
theorem test_meets_ReadsAreAnsweredOrTaken_fill :
    let op (n : Nat) : Operation := ⟨.fill (List.replicate n 0), 5, 0, .queued⟩;
    let s := lists running [op 7];
    let f := lists running [op 8];
    (s.opList.ops = [] ++ op 7 :: [] ∧ (List.replicate 7 (0 : ReadIx)).length < 8) ∧
    (∀ o ∈ running.opList.ops, o.line ≠ 5) ∧
    (f.opList.ops = [] ++ op 8 :: [] ∧ ∀ rs n, rs.length < 8 → op 8 ≠ ⟨.fill rs, 5, n, .queued⟩) := by
  refine ⟨⟨rfl, by decide⟩, by decide +kernel, rfl, ?_⟩
  rintro rs n h ⟨⟩
  exact absurd h (by decide)

theorem test_meets_BitOperationsAreAdmitted :
    let ask (s : State) := asks s (.bitOp .setBits 1 2 64 (List.replicate 8 1));
    let held := ask (put running 3 (entry .held 2 1));
    let full := ask { running with bitops := Vector.replicate 4 (.queued bitReq) };
    ((ask running).upstream.intake = .bitOp .setBits 1 2 64 (List.replicate 8 1) :: [] ∧
      (64 : UpAddr).toNat % 8 + (List.replicate 8 (1 : Byte)).length ≤ 8 ∧
      running.masters[1].tags.getLsbD (2 : Tag) = false ∧ running.regionMap.lookup 1 true 64 = .mapped 64 0 .combine) ∧
    (held.buffer.heldEntry 2 ≠ none ∧ (holds 15 held).upstream.responses.length < 16 ∧
      16 ≤ (holds 16 held).upstream.responses.length) ∧
    (let s := ask (put running 3 (entry .opened 2 1));
      s.buffer.heldEntry 2 = none ∧ ¬s.buffer.hasEntry 2 = false) ∧
    (full.buffer.hasEntry 2 = false ∧ ∀ r : BitIx, full.bitops[r] ≠ .free) ∧
    (running.buffer.hasEntry 2 = false ∧ running.bitops[(0 : BitIx)] = .free ∧
      ∀ i : BitIx, i < 0 → running.bitops[i] ≠ .free) := by decide +kernel

/-- With the response queue full, a refusal with LINE-HELD waits for its line too, and DISCARD lets the bit operation in (R79,
R102). -/
theorem test_release_reoffers_a_refused_bit_operation :
    let s := after (holds 16 (put running 3 (entry .held 2 1))) [.requestArrival (.bitOp .setBits 1 2 64 [1])];
    s.upstream.headWait = .slot (some 2) ∧ (after s [.releaseDiscard 3]).upstream.intake = [] ∧
    (after s [.releaseRetry 3]).upstream.headWait = .bitOp 2 := by decide +kernel

/-- The wait of R79 goes on in a refusal that waits for a slot. -/
theorem test_meets_NonWritesAreRefused_waiting :
    let b := (asks (holds 16 (inState .halted)) (.bitOp .flipBits 1 2 64 [1])).headWaits (.bitOp 2);
    (b.upstream.headWait = .bitOp 2 ∧ 16 ≤ b.upstream.responses.length ∧ b.control.bridge = .halted) ∧
    (after b [.headOffer]).upstream.headWait = .slot (some 2) := by decide +kernel

theorem test_meets_BarriersAreAnsweredOrRecorded :
    let ask (s : State) := asks s (.barrier 0 2);
    let busy := ask draining;
    let waits := ask (put running 3 (entry .opened 2 1));
    ((ask running).upstream.intake = .barrier 0 2 :: [] ∧ running.upstream.busrst = false ∧ running.control.bridge = .run ∧
      running.masters[0].tags.getLsbD (2 : Tag) = false) ∧
    (busy.masters[0].barrier.isSome = true ∧ busy.masters[0].tags.getLsbD (2 : Tag) = false ∧
      (holds 15 busy).upstream.responses.length < 16 ∧ 16 ≤ (holds 16 busy).upstream.responses.length) ∧
    (running.masters[0].barrier = none ∧ running.buffer.waitSet 0 = 0 ∧
      (holds 15 running).upstream.responses.length < 16 ∧ 16 ≤ (holds 16 running).upstream.responses.length) ∧
    (waits.masters[0].barrier = none ∧ waits.buffer.waitSet 0 ≠ 0) := by decide +kernel

/-- A waiting barrier is offered at a delivery whose slot a READY record takes, and is recorded with the entry that RETRY has
committed meanwhile (R91). -/
theorem test_freed_slot_reoffers_a_barrier :
    let s := (holds 16 (put running 3 (entry .held 2 1)));
    let u := after s [.requestArrival (.barrier 0 2), .releaseRetry 3];
    let v := after { u with reads := u.reads.set 7 (.ready readReq .ok []) } [.responseDelivery];
    u.upstream.headWait = .barrier ∧ v.upstream.responses.length = 16 ∧ v.upstream.intake = [] ∧
    v.masters[0].barrier = some ⟨2, 8⟩ := by decide +kernel

theorem test_meets_DeliveryReleasesTheTag :
    let q (r : Response) : State := { running with upstream := { running.upstream with responses := [r] } };
    (q (.data 1 2 .ok [])).upstream.responses = .data 1 2 .ok [] :: [] ∧
    (q (.oldData 1 2 .ok [])).upstream.responses = .oldData 1 2 .ok [] :: [] ∧
    (q (.barrierDone 1 2 none)).upstream.responses = .barrierDone 1 2 none :: [] ∧
    (q (.refused 1 2 .busy)).upstream.responses = .refused 1 2 .busy :: [] ∧ running.upstream.busrst = false ∧
    { running.upstream with busrst := true }.busrst = true := by decide +kernel

theorem test_meets_ReadyResponsesTakeSlotsInOrder :
    let s := holds 15 { running with
      reads := running.reads.set 7 (.ready readReq .ok [])
      bitops := running.bitops.set 3 (.ready bitReq .ok []) };
    let m := running.masters.set 7 { MasterCtx.reset with barrier := some ⟨2, 0⟩ };
    (s.upstream.responses.length < 16 ∧ s.reads[(7 : ReadIx)] = .ready readReq .ok [] ∧
      ∀ j : ReadIx, j < 7 → ∀ r st d, s.reads[j] ≠ .ready r st d) ∧
    ((∀ j : ReadIx, ∀ r st d, running.reads[j] ≠ .ready r st d) ∧ s.bitops[(3 : BitIx)] = .ready bitReq .ok [] ∧
      ∀ j : BitIx, j < 3 → ∀ r st d, s.bitops[j] ≠ .ready r st d) ∧
    ((∀ j : BitIx, ∀ r st d, running.bitops[j] ≠ .ready r st d) ∧ m[(7 : MasterIx)].barrier = some ⟨2, 0⟩ ∧
      (∀ j : MasterIx, j < 7 → ∀ t, m[j].barrier ≠ some ⟨t, 0⟩) ∧ running.control.bridge ≠ .halted ∧
      running.control.bridge ≠ .restarting) := by
  refine ⟨⟨by decide +kernel, rfl, ?_⟩, ⟨?_, rfl, ?_⟩, ?_, rfl, by decide +kernel, by decide +kernel, by decide +kernel⟩
  · intro j hj r st d h; fin_cases j <;> first | exact absurd hj (by decide) | cases h
  · intro j r st d h; fin_cases j <;> cases h
  · intro j hj r st d h; fin_cases j <;> first | exact absurd hj (by decide) | cases h
  · intro j r st d h; fin_cases j <;> cases h

theorem test_meets_CloseRequestCommitsOrMarks :
    let one := put running 0 { entry .opened 5 1 with ageTimer := some 0 };
    let two := put one 1 (entry .held 5 1);
    let pend := put running 0 { entry .opened 5 1 with closePending := true };
    one.buffer.entries[(0 : EntryIx)].line = some 5 ∧
    (let x := two.buffer.entries[(1 : EntryIx)];
      ¬(x.state = .opened ∧ x.closePending = false)) ∧
    (let x := one.buffer.entries[(15 : EntryIx)];
      x.line = none ∧ ¬(x.state = .opened ∧ x.closePending = false)) ∧
    (let x := two.buffer.entries[(0 : EntryIx)];
      x.state = .opened ∧ x.closePending = false ∧ two.buffer.predecessor 5 ≠ none) ∧
    (let x := one.buffer.entries[(0 : EntryIx)];
      x.state = .opened ∧ x.closePending = false ∧ one.buffer.predecessor 5 = none ∧ x.ageTimer.isSome = true) ∧
    (let x := pend.buffer.entries[(0 : EntryIx)];
      x.state = .opened ∧ x.closePending = true ∧ pend.buffer.predecessor 5 = none) := by decide +kernel

theorem test_meets_OverlayTakesTheNewerByte :
    let b := draining.buffer;
    b.openEntry 5 = some 1 ∧ b.predecessor 5 = some 0 ∧ b.entries[(1 : EntryIx)].valid.getLsbD (1 : Fin 32) = true ∧
    (b.entries[(0 : EntryIx)].valid.getLsbD (0 : Fin 32) = true ∧
      b.entries[(1 : EntryIx)].valid.getLsbD (0 : Fin 32) = false) ∧
    (b.entries[(0 : EntryIx)].valid.getLsbD (31 : Fin 32) = false ∧
      b.entries[(1 : EntryIx)].valid.getLsbD (31 : Fin 32) = false) := by decide +kernel

theorem test_meets_FoldingKeepsTheOverlay : draining.buffer.lineLaw ∧
    draining.buffer.entries[(0 : EntryIx)].state = .draining ∧ draining.buffer.entries[(0 : EntryIx)].line = some 5 ∧
    (draining.buffer.overlay 5).1.getLsbD (1 : Fin 32) = true :=
  ⟨test_meets_line_law.1, by decide +kernel⟩

/-- A DRAINING entry with a successor and one without. -/
theorem test_meets_FoldingKeepsTheOverlay_successor :
    draining.buffer.openEntry 5 = some 1 ∧
    (let s := put running 0 (entry .draining 5 1);
      s.buffer.openEntry 5 = none ∧ s.buffer.entries[(0 : EntryIx)].state = .draining ∧
        s.buffer.entries[(0 : EntryIx)].line = some 5) := by decide +kernel

def drains (d : DrainKind) : State := lists (put running 0 (entry .committed 5 1)) [⟨.drain d 0, 5, 0, .queued⟩]
def bitWaits : State := lists { running with bitops := running.bitops.set 0 (.queued bitReq) } [⟨.bitop 0, 5, 0, .queued⟩]
def fillWaits : State := lists { running with reads := running.reads.set 0 (.waitFill readReq) }
  [⟨.fill [0], 5, 0, .queued⟩]
def scrubWaits : State := lists running [⟨.scrub, 5, 0, .queued⟩]

theorem test_meets_DispatchPutsTheOperationInFlight :
    (∀ d ∈ [DrainKind.fullWrite, .mergeWrite, .forceWrite], (drains d).dispatchChoice = some (0, 0) ∧
      (drains d).opList.ops[0]? = some ⟨.drain d 0, 5, 0, .queued⟩) ∧
    (bitWaits.dispatchChoice = some (0, 0) ∧ bitWaits.opList.ops[0]? = some ⟨.bitop 0, 5, 0, .queued⟩ ∧
      bitWaits.bitops[(0 : BitIx)] = .queued bitReq) ∧
    fillWaits.dispatchChoice = some (0, 0) ∧ scrubWaits.dispatchChoice = some (0, 0) := by decide +kernel

/-- With few FREE entries the drain goes first, and otherwise the fill (R49). -/
theorem test_meets_ArbiterTakesTheOldestOfTheHighestClass :
    let s := lists { (put running 0 (entry .committed 5 1)) with lanes := running.lanes.set 0 (.busy .stopped) }
      [⟨.drain .mergeWrite 0, 5, 0, .queued⟩, ⟨.fill [0], 6, 1, .queued⟩];
    (s.control.bridge = .run ∧ s.lanes[(1 : LaneIx)] = .idle ∧
      s.opList.ops[0]? = some ⟨.drain .mergeWrite 0, 5, 0, .queued⟩) ∧
    let t := { s with buffer := (putAll s (entry .committed 5 1)).buffer };
    s.dispatchChoice = some (1, 1) ∧ t.dispatchChoice = some (1, 0) := by decide +kernel

theorem test_meets_IssueStartsTheTimer :
    let s (b : BridgeState) : State := { inState b with port := { running.port with queue := [⟨3, .lineRead, 5⟩] } };
    ∀ b ∈ [BridgeState.run, .quiescing, .halted], (s b).port.condition = .idle ∧
      (s b).port.queue = ⟨3, .lineRead, 5⟩ :: [] ∧ (s b).control.bridge = b := by decide +kernel

theorem test_meets_DoneFreesTheDrainedEntry :
    let s := portAt draining (.issued writing 20);
    s.port.condition = .issued writing 20 ∧ writing.cmd = .lineWrite (Vector.replicate 4 0) ∧
    s.laneOp writing.lane = some ⟨.drain .mergeWrite 0, 5, 0, .inFlight 0⟩ ∧
    s.buffer.entries[(0 : EntryIx)].state = .draining ∧ s.buffer.entries[(0 : EntryIx)].line = some 5 ∧
    (s.buffer.openEntry 5 = some 1 ∧ s.buffer.entries[(1 : EntryIx)].closePending = true) ∧
    (let u := put s 1 (entry .opened 5 2);
      u.buffer.openEntry 5 = some 1 ∧ u.buffer.entries[(1 : EntryIx)].closePending = false) ∧
    (put s 1 Entry.free).buffer.openEntry 5 = none := by decide +kernel

/-- A CORRECTED and an UNCORRECTABLE word are counted, raised and logged (R120, R122). -/
theorem test_done_notes_the_words :
    let s : State := { draining with port := { draining.port with logCorrected := true, correctedCount := 65534 } };
    let w := encodeWord 17;
    let t := s.arrayDone #v[w ^^^ BitVec.twoPow 72 67, w, w ^^^ BitVec.twoPow 72 1, w];
    t.port.correctedCount = 65535 ∧ t.events.pending = 512 ∧ t.faults.records =
      [⟨0, .corrected true, none, none, none, some 5, some 0, some 67, some (.drain .mergeWrite, 0)⟩,
       ⟨1, .corrected false, none, none, none, some 5, some 2, some 1, some (.drain .mergeWrite, 0)⟩] := by decide +kernel

theorem test_meets_DoneClassifiesTheWords :
    draining.port.condition = .issued reading 20 ∧ reading.cmd = .lineRead := by decide +kernel

def flies (w : Work) : State := lists draining [⟨w, 5, 0, .inFlight 3⟩]

theorem test_meets_LanesActOnTheWordsRead :
    (∀ d ∈ [DrainKind.mergeWrite, .forceWrite],
      (flies (.drain d 0)).laneOp 3 = some ⟨.drain d 0, 5, 0, .inFlight 3⟩) ∧
    (flies .scrub).laneOp 3 = some ⟨.scrub, 5, 0, .inFlight 3⟩ ∧ draining.control.bridge ≠ .restarting ∧
    (∀ w : WordIx, clean[w].cls ≠ .uncorrectable) ∧ (∀ w : WordIx, clean[w].cls = .clean) ∧
    ((badWord 0)[(0 : WordIx)].cls = .uncorrectable ∧
      ∀ v : WordIx, (badWord 0)[v].cls = .uncorrectable →
        (∀ p : Fin 32, p.val / 8 = v.val → (wordSet 0).getLsbD p = true) ∧ 0 ≤ v) ∧
    ((badWord 3)[(3 : WordIx)].cls = .uncorrectable ∧
      ¬(∀ p : Fin 32, p.val / 8 = (3 : WordIx).val → (wordSet 0).getLsbD p = true) ∧
      ∀ v : WordIx, (badWord 3)[v].cls = .uncorrectable →
        ¬(∀ p : Fin 32, p.val / 8 = v.val → (wordSet 0).getLsbD p = true) → 3 ≤ v) ∧
    ((∀ v : WordIx, (fixedWord 3)[v].cls ≠ .uncorrectable) ∧ (fixedWord 3)[(3 : WordIx)].cls = .corrected 5) ∧
    ¬(inState .restarting).control.bridge ≠ .restarting ∧
    (let s := portAt (flies .scrub) (.issued { writing with lane := 3 } 20);
      s.port.condition = .issued { writing with lane := 3 } 20 ∧ s.laneOp 3 = some ⟨.scrub, 5, 0, .inFlight 3⟩) := by
  decide +kernel

theorem test_meets_BitOperationsChangeTheSpanOnly :
    let s := { flies (.bitop 3) with bitops := draining.bitops.set 3 (.inFlight bitReq []) };
    (s.laneOp 3 = some ⟨.bitop 3, 5, 0, .inFlight 3⟩ ∧ s.bitops[(3 : BitIx)] = .inFlight bitReq []) ∧
    (badWord 0)[bitReq.word].cls = .uncorrectable ∧ (∀ w : WordIx, clean[w].cls ≠ .uncorrectable) ∧
    (s.control.bridge ≠ .restarting ∧ (badWord 3)[bitReq.word].cls ≠ .uncorrectable ∧
      (badWord 3)[(3 : WordIx)].cls = .uncorrectable ∧ ∀ v : WordIx, v < 3 → (badWord 3)[v].cls ≠ .uncorrectable) ∧
    (bitReq.first ≤ (0 : Fin 32).val ∧ (0 : Fin 32).val < bitReq.first + bitReq.operand.length) ∧
    ¬(bitReq.first ≤ (1 : Fin 32).val ∧ (1 : Fin 32).val < bitReq.first + bitReq.operand.length) ∧
    { s with bitops := draining.bitops.set 3 (.orphaned bitReq) }.bitops[(3 : BitIx)] = .orphaned bitReq ∧
    { s with control := ⟨.restarting, none⟩ }.control.bridge = .restarting ∧
    (portAt s (.issued { writing with lane := 3 } 20)).port.condition = .issued { writing with lane := 3 } 20 := by
  decide +kernel

theorem test_meets_ReadersTakeOverlayThenArray :
    let r := { readReq with overlaySet := wordSet 0 };
    r.first + r.count ≤ 32 ∧
    (∃ q : Fin 32, r.first ≤ q.val ∧ q.val < r.first + r.count ∧ r.overlaySet.getLsbD q = false ∧
      (badWord 3)[wordOfPos q.val].cls = .uncorrectable) ∧
    (∀ q : Fin 32, r.first ≤ q.val → q.val < r.first + r.count → r.overlaySet.getLsbD q = false →
      (badWord 0)[wordOfPos q.val].cls ≠ .uncorrectable) := by decide +kernel

/-- A fill with an ORPHANED reader and one that needs a bad word: the first is FREE, the second READY with DATA-ERROR, and
READ-UNCORRECTABLE is logged (R67, R68, R71). -/
theorem test_fill_completes :
    let s := { flies (.fill [1, 0]) with
      reads := (running.reads.set 0 (.waitFill readReq)).set 1 (.orphaned readReq) };
    let t := s.laneRead 3 (badWord 3);
    s.laneOp 3 = some ⟨.fill [1, 0], 5, 0, .inFlight 3⟩ ∧ (readReq.answer (badWord 3)).1 = .dataError ∧
    t.reads[(0 : ReadIx)] = .ready readReq .dataError (List.replicate 32 0) ∧ t.reads[(1 : ReadIx)] = .free ∧
    t.faults.records = [⟨0, .readUncorrectable 1, some 1, some 2, none, some 5, some 3, none, some (.fillRead, 0)⟩] := by
  decide +kernel

theorem test_meets_FinalFailuresTakeTheirSteps :
    draining.port.condition = .issued reading 20 ∧ writing.retries = 0 ∧
    (inState .halted).control.bridge ≠ .run ∧ (inState .halted).control.bridge ≠ .quiescing ∧
    (portAt (inState .halted) (.aborting (some reading) 1)).port.condition = .aborting (some reading) 1 ∧
    (∀ w ∈ [Work.drain .mergeWrite 0, .fill [0], .bitop 3, .scrub], (flies w).laneOp 3 = some ⟨w, 5, 0, .inFlight 3⟩) ∧
    (draining.bitops.set 3 (.inFlight bitReq []))[(3 : BitIx)] = .inFlight bitReq [] ∧
    (draining.bitops.set 3 (.orphaned bitReq))[(3 : BitIx)] = .orphaned bitReq := by decide +kernel

theorem test_meets_HaltsTakeTheirSteps :
    let s (f : Nat) : State := { running with port := { running.port with failures := f } };
    min 15 ((s 2).port.failures + 1) < (s 2).port.haltThreshold ∧
    ((inState .halted).control.bridge ≠ .run ∧ (inState .halted).control.bridge ≠ .quiescing) ∧
    ((s 3).port.haltThreshold ≤ min 15 ((s 3).port.failures + 1) ∧ (s 3).control.bridge = .run) ∧
    (inState .quiescing).control.bridge = .quiescing := by decide +kernel

theorem test_meets_TimeoutsAbortAndReissue :
    (draining.port.condition = .issued reading 20 ∧ 0 < reading.retries ∧ draining.control.bridge = .run) ∧
    (portAt draining (.aborting (some reading) 1)).port.condition = .aborting (some reading) 1 ∧
    (portAt draining (.aborting none 1)).port.condition = .aborting none 1 ∧
    ∀ p t, running.port.condition ≠ .issued p t := by
  refine ⟨by decide +kernel, rfl, rfl, nofun⟩

theorem test_meets_CheckCodeCorrectsOneBit : 0 < 72 ∧ 71 < 72 ∧ 0 ≠ 71 := by decide

theorem test_meets_EventsOutOfPlaceChangeNothing :
    (inState .quiescing).examinable = false ∧ running.upstream.intake = [] ∧
    running.buffer.entries[(15 : EntryIx)].state ≠ .opened ∧
    (let x := (put running 0 (entry .opened 5 1)).buffer.entries[(0 : EntryIx)];
      x.ageTimer = none ∧ x.closePending = false) ∧
    16 ≤ (holds 16 running).upstream.responses.length ∧ running.dispatchChoice = none ∧
    draining.port.condition ≠ .idle ∧ running.port.queue = [] ∧ running.scrub.timer = none ∧
    running.control.bridge ≠ .quiescing ∧ running.control.bridge ≠ .restarting ∧
    (portAt (inState .restarting) (.issued reading 1)).port.condition ≠ .idle ∧ running.mgmt.msel = false ∧
    (∀ c t, running.port.condition ≠ .issued c t) ∧ ∀ c t, running.port.condition ≠ .aborting c t := by
  refine ⟨?_, ?_, ?_, ?_, ?_, ?_, ?_, ?_, ?_, ?_, ?_, ?_, ?_, nofun, nofun⟩ <;> decide +kernel

def scrubs (p : Nat) : State := { running with scrub := ⟨true, some 0, p, 0, 1000⟩ }

theorem test_meets_ScrubExpiryAppendsAndAdvances :
    (scrubs 0).scrub.timer = some 0 ∧ (∃ o ∈ scrubWaits.opList.ops, o.work = .scrub) ∧
    (∀ o ∈ (scrubs 0).opList.ops, o.work ≠ .scrub) ∧ (scrubs 2046).scrub.position + 1 < (scrubs 2046).capacityLines ∧
    (scrubs 2047).scrub.position + 1 = (scrubs 2047).capacityLines := by decide +kernel

theorem test_meets_QuiesceCompletesAndRestartClears :
    (let s := put (inState .quiescing) 3 (entry .held 5 1);
      s.port.condition = .idle ∧ s.control.bridge = .quiescing ∧ s.noWork ∧
        ∀ e : EntryIx, s.buffer.entries[e].state = .free ∨ s.buffer.entries[e].state = .held) ∧
    (inState .restarting).port.condition = .idle ∧ (inState .restarting).control.bridge = .restarting := by
  unfold State.noWork; decide +kernel

theorem test_meets_StateCommandsFollowTheBridgeState :
    let c : State := { inState .config with regionMap := oneWindow .combine };
    (c.control.bridge = .config ∧ c.regionMap.validate = none) ∧
    (State.reset.control.bridge = .config ∧ State.reset.regionMap.validate = some .noCapacity) ∧
    (∀ b ∈ [BridgeState.run, .quiescing, .quiesced, .halted, .restarting], (inState b).control.bridge = b) ∧
    (∀ e : EntryIx, (inState .quiesced).buffer.entries[e].state ≠ .held) ∧
    (∃ e : EntryIx, (put (inState .quiesced) 15 (entry .held 5 1)).buffer.entries[e].state = .held) := by decide +kernel

theorem test_meets_LookupFollowsTheOneDescriptor :
    exampleMap.validate = none ∧ (∀ n : RegionIx, exampleMap.regions[n].covers (25165824 : UpAddr).toNat = false) ∧
    exampleMap.regions[(1 : RegionIx)].covers (16777216 : UpAddr).toNat = true ∧
    exampleMap.regions[(1 : RegionIx)].covers (25165823 : UpAddr).toNat = true ∧
    exampleMap.regions[(1 : RegionIx)].base % 4096 = 0 ∧ exampleMap.regions[(1 : RegionIx)].offset % 4096 = 0 := by
  decide +kernel

theorem test_meets_ObservingCommandsAnswer :
    (28 : Byte).toNat < 29 ∧ 29 ≤ (29 : Byte).toNat ∧
    ((List.replicate 40 (0 : Byte)).length ≤ 40 ∧ List.replicate 40 (0 : Byte) ≠ []) ∧
    ((15 : Byte).toNat = (15 : EntryIx).val ∧ 16 ≤ (16 : Byte).toNat) ∧
    (7 : Byte).toNat = (7 : MasterIx).val ∧ 8 ≤ (8 : Byte).toNat := by decide +kernel

theorem test_meets_SetItemStoresTheValue :
    let w (lo hi : Byte) := lo.toNat + 256 * hi.toNat;
    ((inState .config).control.bridge = .config ∧ (11 : Byte).toNat ≤ 11) ∧
    regionOfBytes (List.replicate 12 0) ≠ none ∧ (List.replicate 13 (0 : Byte)).length ≠ 12 ∧ (8 : Byte).toNat ≤ 8 ∧
    ([255, 7, 0, 0].length = 4 ∧ running.scrub.running = false ∧ leValue [255, 7, 0, 0] < running.capacityLines) ∧
    (w 255 15 < 4096 ∧ w 255 15 % 2 = 1 ∧ running.control.bridge ≠ .restarting) ∧ w 255 3 ≤ 1023 ∧
    1 ≤ (255 : Byte).toNat ∧ (3 : Byte).toNat ≤ 3 ∧ (1 ≤ (15 : Byte).toNat ∧ (15 : Byte).toNat ≤ 15) ∧ 1 ≤ w 1 0 ∧
    (1 : Byte).toNat ≤ 1 := by decide +kernel

/-- The boundary payloads of SET_ITEM: the last value stored and the first refused, item by item. -/
theorem test_meets_SetItemRefusesByTheFirstCheck :
    let st (i : Byte) (p : List Byte) := status (after { running with control := ⟨.config, none⟩ } [.setItem i p]);
    ([0, 1, 18, 24, 25, 26, 27, 29, 255].all fun i => st i [0] == 3) = true ∧
    ([2, 3, 10, 13, 14, 15].all fun i => status (after running [.setItem i [1]]) == 5) = true ∧
    ([21, 22, 23].all fun i => status (after (inState .restarting) [.setItem i [1, 0]]) == 5) = true ∧
    status (after (scrubs 0) [.setItem 17 [0, 0, 0, 0]]) = 5 ∧
    ([(2, [11]), (11, [255, 3]), (12, [8]), (13, [1]), (14, [3]), (15, [15]), (16, [1, 0]), (17, [255, 7, 0, 0]),
        (19, [9, 9]), (20, [1]), (21, [255, 15]), (22, [1, 0]), (23, [255, 15]), (28, [255]), (3, List.replicate 12 0)].all
      fun x => st x.1 x.2 == 0) = true ∧
    ([(2, [12]), (11, [0, 4]), (12, [9]), (13, [0]), (14, [4]), (15, [16]), (15, [0]), (16, [0, 0]), (17, [0, 8, 0, 0]),
        (19, [9]), (20, [2]), (21, [1, 16]), (22, [0, 0]), (23, [0, 16]), (28, []), (3, List.replicate 11 0)].all
      fun x => st x.1 x.2 == 4) = true := by decide +kernel

theorem test_meets_FlushAndScrubCommands :
    (running.control.bridge = .run ∧ running.scrub.running = false ∧ running.control.bridge ≠ .restarting) ∧
    ((scrubs 0).control.bridge = .run ∧ (scrubs 0).scrub.running = true) ∧ (inState .halted).control.bridge ≠ .run ∧
    (inState .restarting).control.bridge = .restarting := by decide +kernel

theorem test_meets_ReleasesActOnTheHeldEntry :
    let s := put running 15 (entry .held 5 1);
    ((15 : Byte).toNat = (15 : EntryIx).val ∧ s.control.bridge = .run ∧ s.buffer.entries[(15 : EntryIx)].state = .held ∧
      s.buffer.entries[(15 : EntryIx)].line = some 5) ∧
    (inState .quiescing).control.bridge = .quiescing ∧ (inState .quiesced).control.bridge = .quiesced ∧
    (let b := (inState .halted).control.bridge;
      ¬(b = .run ∨ b = .quiescing ∨ b = .quiesced)) ∧ 16 ≤ (16 : Byte).toNat ∧
    ((0 : Byte).toNat = (0 : EntryIx).val ∧ s.buffer.entries[(0 : EntryIx)].state ≠ .held) := by decide +kernel

def aFault : FaultRecord := ⟨0, .writeUnmapped 1, none, none, none, none, none, none, none⟩

theorem test_meets_FaultsAreKeptReadAndCleared :
    let q (n : Nat) : State := { running with faults := ⟨List.replicate n aFault, 0, 0⟩ };
    (q 7).faults.records.length < 8 ∧ 8 ≤ (q 8).faults.records.length ∧ (q 0).faults.records = [] ∧
    (q 1).faults.records = aFault :: [] := by decide +kernel

theorem test_meets_EventsAreTakenInOrder :
    let s := nested;
    let t := after nested [.endService []];
    (t.events.pending.getLsbD (1 : Fin 12) = true ∧ t.events.enable.getLsbD (1 : Fin 12) = true ∧
      t.events.stack.getLast? = some .routine ∧ t.events.urgent.getLsbD (1 : Fin 12) = true ∧
      t.events.choose = some 1) ∧
    (s.events.stack.getLast? = some .urgent ∧ s.events.choose = none) ∧
    State.reset.events.stack = [] ∧ s.events.stack = [.routine] ++ [.urgent] := by decide +kernel

theorem test_meets_BadFramesAreAnswered :
    40 < (List.replicate 41 (0 : Byte)).length ∧
    ((List.replicate 40 (0 : Byte)) ≠ [] ∧ (List.replicate 40 (0 : Byte)).length ≤ 40) ∧
    (∀ b ∈ [BridgeState.config, .run, .quiescing, .quiesced, .halted, .restarting], (inState b).control.bridge = b) ∧
    (∃ e : EntryIx, (put (inState .quiesced) 15 (entry .held 5 1)).buffer.entries[e].state = .held) ∧
    ¬∃ e : EntryIx, (inState .quiesced).buffer.entries[e].state = .held := by decide +kernel

theorem test_meets_ClockedFramesAreTheirRows :
    let s := selected running .command;
    (s.mgmt.msel = true ∧ s.mgmt.condition = .command ∧ s.mgmt.bytes = [] ∧ s.mgmt.bits = []) ∧
    (List.replicate 40 (0 : Byte)).length ≤ 40 ∧ ((18 : Byte), Instr.scrubStop []) ∈ [((18 : Byte), Instr.scrubStop [])] ∧
    (([3] : List Byte) ≠ [0] ∧ ([3] : List Byte) ≠ [1] ∧ ([3] : List Byte) ≠ [2]) ∧ 19 ≤ (19 : Byte).toNat ∧
    (0 : Byte) ≠ crc8 [1, 0, 0] ∧ 40 < (41 : Byte).toNat := by decide +kernel

/-- START clocked in bit by bit is answered like its row (R174, R184). -/
theorem test_start_clocked_in :
    let frame : List Byte := [3, 0, 0, crc8 [3, 0, 0]];
    let edges := frame.flatMap fun b => (List.range 8).map fun k => Instr.mckEdge (.rising (b.getLsbD (7 - k)));
    let c := { selected running .command with control := ⟨.config, none⟩ };
    (after c edges).control.bridge = .run ∧ status (after c edges) = 0 ∧ (after c edges).mgmt.condition = .reply := by
  decide +kernel

/-- A reply of one filler and one byte: the sixteenth bit is out at the falling edge, and the engine is TRAILING at the rising
edge that follows (R174, R178). -/
theorem test_meets_ReplyIsShiftedOut :
    let s := { selected running .reply with mgmt :=
      { (selected running .reply).mgmt with fillers := 1, response := [90], sent := 0 } };
    let pulses (n : Nat) := (List.replicate n [Instr.mckEdge .falling, .mckEdge (.rising false)]).flatten;
    (s.mgmt.msel = true ∧ s.mgmt.condition = .reply ∧ s.mgmt.sent = 0 ∧
      8 * (List.replicate s.mgmt.fillers (255 : Byte) ++ s.mgmt.response).length = 16) ∧
    (after s (pulses 15 ++ [.mckEdge .falling])).mgmt.condition = .reply ∧
    (after s (pulses 16)).mgmt.condition = .trailing ∧ (after s (pulses 16 ++ [.mckEdge .falling])).mgmt.mdo = true := by
  decide +kernel

theorem test_meets_RepliesFrameTheirPayload : (List.replicate 48 (0 : Byte)).length ≤ 48 := by decide

end Sys2Proof.Tests
end

/-! ## The region map: its validation and its lookup (R3, R5, R7-R11, R14) -/

namespace Sys2Proof.Machine

/-- Check 3 of R14 fails for descriptor `n`. -/
def RegionMap.Misaligned (m : RegionMap) (n : RegionIx) : Prop :=
  m.regions[n].valid = true ∧ m.regions[n].base % m.regions[n].size ≠ 0

/-- Check 4 of R14 fails for descriptor `n`. -/
def RegionMap.Beyond (m : RegionMap) (n : RegionIx) : Prop :=
  m.regions[n].valid = true ∧ 32 * linesOfCode m.memorySize < m.regions[n].offset + m.regions[n].size

/-- Check 5 of R14 fails for descriptors `i` and `j`: both are valid and their windows have an address in common. -/
def RegionMap.Shared (m : RegionMap) (i j : RegionIx) : Prop :=
  m.regions[i].valid = true ∧ m.regions[j].valid = true ∧
    ∃ a, (m.regions[i].base ≤ a ∧ a < m.regions[i].base + m.regions[i].size) ∧
      (m.regions[j].base ≤ a ∧ a < m.regions[j].base + m.regions[j].size)

theorem RegionMap.Shared.symm {m : RegionMap} {i j : RegionIx} (h : m.Shared i j) : m.Shared j i := by
  obtain ⟨hi, hj, a, hai, haj⟩ := h
  exact ⟨hj, hi, a, haj, hai⟩

theorem Region.size_pos (r : Region) : 0 < r.size := Nat.mul_pos (by decide) (Nat.two_pow_pos _)

theorem Region.covers_iff {r : Region} {a : Nat} :
    r.covers a = true ↔ r.valid = true ∧ r.base ≤ a ∧ a < r.base + r.size := by
  simp [Region.covers]

/-- The capacity in bytes (R3). -/
theorem capacity_bytes (c : Nat) : 32 * linesOfCode c = if c = 0 then 0 else 65536 * 2 ^ (c - 1) := by
  unfold linesOfCode
  split
  · rfl
  · omega

/-! ### What each search of the validation finds -/

/-- Two windows overlap exactly when they have an address in common: the larger of the two bases is one. -/
theorem RegionMap.overlaps_iff {m : RegionMap} {i j : RegionIx} :
    m.regions[i].overlaps m.regions[j] = true ↔ m.Shared i j := by
  have hi := m.regions[i].size_pos
  have hj := m.regions[j].size_pos
  simp only [Region.overlaps, Bool.and_eq_true, decide_eq_true_eq, and_assoc, RegionMap.Shared]
  refine and_congr_right fun _ => and_congr_right fun _ => ⟨fun h => ?_, fun ⟨a, h⟩ => by omega⟩
  exact ⟨max m.regions[i].base m.regions[j].base, by omega⟩

theorem RegionMap.firstValid_some {m : RegionMap} {bad : Region → Bool} {n : RegionIx} :
    m.firstValid bad = some n ↔ (m.regions[n].valid = true ∧ bad m.regions[n] = true) ∧
      ∀ i : RegionIx, i < n → ¬(m.regions[i].valid = true ∧ bad m.regions[i] = true) := by
  simp [RegionMap.firstValid, lowestFin_some]

theorem RegionMap.firstValid_none {m : RegionMap} {bad : Region → Bool} :
    m.firstValid bad = none ↔ ∀ i : RegionIx, ¬(m.regions[i].valid = true ∧ bad m.regions[i] = true) := by
  simp [RegionMap.firstValid, lowestFin_none]

/-- The test by which `overlapOf` looks for a later window. -/
theorem RegionMap.laterOverlap_iff {m : RegionMap} {i j : RegionIx} :
    (decide (i.val < j.val) && m.regions[i].overlaps m.regions[j]) = true ↔ i < j ∧ m.Shared i j := by
  rw [Bool.and_eq_true, decide_eq_true_eq, overlaps_iff, Fin.lt_def]

theorem RegionMap.overlapOf_some {m : RegionMap} {i j : RegionIx} :
    m.overlapOf i = some j ↔ i < j ∧ m.Shared i j ∧ ∀ l, i < l → l < j → ¬m.Shared i l := by
  simp only [RegionMap.overlapOf, lowestFin_some, ← Bool.not_eq_true, laterOverlap_iff, and_assoc, not_and]
  exact and_congr_right fun _ => and_congr_right fun _ => forall_congr' fun _ => imp.swap

theorem RegionMap.overlapOf_none {m : RegionMap} {i : RegionIx} :
    m.overlapOf i = none ↔ ∀ j, i < j → ¬m.Shared i j := by
  simp only [RegionMap.overlapOf, lowestFin_none, ← Bool.not_eq_true, laterOverlap_iff, not_and]

theorem RegionMap.firstOverlap_none {m : RegionMap} :
    m.firstOverlap = none ↔ ∀ i j, i < j → ¬m.Shared i j := by
  simp [RegionMap.firstOverlap, overlapOf_none]

theorem RegionMap.firstOverlap_some {m : RegionMap} {i j : RegionIx} :
    m.firstOverlap = some (i, j) ↔ i < j ∧ m.Shared i j ∧ (∀ k l, k < i → k < l → ¬m.Shared k l) ∧
      ∀ l, i < l → l < j → ¬m.Shared i l := by
  rw [RegionMap.firstOverlap, ← Fin.findSome?_eq_findSome?_finRange, Fin.findSome?_eq_some_iff]
  simp only [Option.map_eq_some_iff, Option.map_eq_none_iff, Prod.mk.injEq, overlapOf_some, overlapOf_none]
  constructor
  · rintro ⟨_, ⟨_, ⟨hij, hs, hl⟩, rfl, rfl⟩, hlow⟩
    exact ⟨hij, hs, fun k l hk => hlow k hk l, hl⟩
  · rintro ⟨hij, hs, hlow, hl⟩
    exact ⟨i, ⟨j, ⟨hij, hs, hl⟩, rfl, rfl⟩, fun k hk l => hlow k l hk⟩

/-! ### The five checks in their order -/

theorem RegionMap.firstMisaligned_some {m : RegionMap} {n : RegionIx} :
    m.firstValid (fun r => r.base % r.size != 0) = some n ↔ m.Misaligned n ∧ ∀ i, i < n → ¬m.Misaligned i := by
  simp only [firstValid_some, bne_iff_ne, RegionMap.Misaligned]

theorem RegionMap.firstMisaligned_none {m : RegionMap} :
    m.firstValid (fun r => r.base % r.size != 0) = none ↔ ∀ n, ¬m.Misaligned n := by
  simp only [firstValid_none, bne_iff_ne, RegionMap.Misaligned]

theorem RegionMap.firstBeyond_some {m : RegionMap} {n : RegionIx} :
    m.firstValid (fun r => decide (32 * linesOfCode m.memorySize < r.offset + r.size)) = some n ↔
      m.Beyond n ∧ ∀ i, i < n → ¬m.Beyond i := by
  simp only [firstValid_some, decide_eq_true_eq, RegionMap.Beyond]

theorem RegionMap.firstBeyond_none {m : RegionMap} :
    m.firstValid (fun r => decide (32 * linesOfCode m.memorySize < r.offset + r.size)) = none ↔ ∀ n, ¬m.Beyond n := by
  simp only [firstValid_none, decide_eq_true_eq, RegionMap.Beyond]

theorem RegionMap.firstValid_true_none {m : RegionMap} :
    m.firstValid (fun _ => true) = none ↔ ∀ n : RegionIx, m.regions[n].valid = false := by
  simp [firstValid_none]

/-- With a capacity and a valid descriptor, checks 3, 4 and 5 are searched in turn. -/
theorem RegionMap.validate_searches {m : RegionMap} (hc : m.memorySize ≠ 0)
    (hv : ∃ n : RegionIx, m.regions[n].valid = true) :
    m.validate = ((m.firstValid fun r => r.base % r.size != 0).map .baseAlignment).or
      (((m.firstValid fun r => decide (32 * linesOfCode m.memorySize < r.offset + r.size)).map .beyondCapacity).or
        (m.firstOverlap.map fun p => .overlap p.1 p.2)) := by
  have hsome : m.firstValid (fun _ => true) ≠ none := by
    simpa [firstValid_true_none] using hv
  obtain ⟨n, hn⟩ := Option.ne_none_iff_exists'.mp hsome
  rw [RegionMap.validate, if_neg hc, hn]
  cases m.firstValid fun r => r.base % r.size != 0
  · cases m.firstValid fun r => decide (32 * linesOfCode m.memorySize < r.offset + r.size) <;> rfl
  · rfl

/-- What the validation answers: check 1 fails, check 2 fails, or the searches of checks 3 to 5 decide. -/
theorem RegionMap.validate_cases (m : RegionMap) :
    (m.memorySize = 0 ∧ m.validate = some .noCapacity) ∨
    (m.memorySize ≠ 0 ∧ (∀ n : RegionIx, m.regions[n].valid = false) ∧ m.validate = some .noRegion) ∨
    (m.memorySize ≠ 0 ∧ (∃ n : RegionIx, m.regions[n].valid = true) ∧
      m.validate = ((m.firstValid fun r => r.base % r.size != 0).map .baseAlignment).or
        (((m.firstValid fun r => decide (32 * linesOfCode m.memorySize < r.offset + r.size)).map .beyondCapacity).or
          (m.firstOverlap.map fun p => .overlap p.1 p.2))) := by
  by_cases hc : m.memorySize = 0
  · exact .inl ⟨hc, if_pos hc⟩
  by_cases hv : ∃ n : RegionIx, m.regions[n].valid = true
  · exact .inr (.inr ⟨hc, hv, validate_searches hc hv⟩)
  · have hv' : ∀ n : RegionIx, m.regions[n].valid = false := by simpa using hv
    refine .inr (.inl ⟨hc, hv', ?_⟩)
    rw [RegionMap.validate, if_neg hc, firstValid_true_none.mpr hv']

section NoValidDescriptor
variable {m : RegionMap} (hv : ∀ n : RegionIx, m.regions[n].valid = false)
include hv

theorem RegionMap.not_misaligned_of_invalid (n : RegionIx) : ¬m.Misaligned n :=
  fun h => Bool.false_ne_true ((hv n).symm.trans h.1)

theorem RegionMap.not_beyond_of_invalid (n : RegionIx) : ¬m.Beyond n :=
  fun h => Bool.false_ne_true ((hv n).symm.trans h.1)

theorem RegionMap.not_shared_of_invalid (i j : RegionIx) : ¬m.Shared i j :=
  fun h => Bool.false_ne_true ((hv i).symm.trans h.1)

end NoValidDescriptor

theorem RegionMap.noneShared_iff {m : RegionMap} :
    (∀ i j, i < j → ¬m.Shared i j) ↔ ∀ i j, i ≠ j → ¬m.Shared i j := by
  refine ⟨fun h i j hne hs => ?_, fun h i j hlt => h i j (ne_of_lt hlt)⟩
  rcases lt_or_gt_of_ne hne with hlt | hgt
  · exact h i j hlt hs
  · exact h j i hgt hs.symm

theorem RegionMap.validate_none_iff {m : RegionMap} :
    m.validate = none ↔ m.memorySize ≠ 0 ∧ (∃ n : RegionIx, m.regions[n].valid = true) ∧ (∀ n, ¬m.Misaligned n) ∧
      (∀ n, ¬m.Beyond n) ∧ ∀ i j, i ≠ j → ¬m.Shared i j := by
  rcases m.validate_cases with ⟨hc, h⟩ | ⟨hc, hv, h⟩ | ⟨hc, hv, h⟩
  · simp [h, hc]
  · simp only [h, reduceCtorEq, hv, Bool.false_eq_true, exists_const, false_and, and_false]
  · simp only [h, Option.or_eq_none_iff, Option.map_eq_none_iff, firstMisaligned_none, firstBeyond_none,
      firstOverlap_none, noneShared_iff, hc, hv, ne_eq, not_false_eq_true, true_and]

theorem RegionMap.validate_noCapacity_iff {m : RegionMap} : m.validate = some .noCapacity ↔ m.memorySize = 0 := by
  rcases m.validate_cases with ⟨hc, h⟩ | ⟨hc, hv, h⟩ | ⟨hc, hv, h⟩ <;> simp [h, hc]

theorem RegionMap.validate_noRegion_iff {m : RegionMap} :
    m.validate = some .noRegion ↔ m.memorySize ≠ 0 ∧ ∀ n : RegionIx, m.regions[n].valid = false := by
  rcases m.validate_cases with ⟨hc, h⟩ | ⟨hc, hv, h⟩ | ⟨hc, hv, h⟩
  · simp [h, hc]
  · exact iff_of_true h ⟨hc, hv⟩
  · simpa [h] using fun _ => hv

theorem RegionMap.validate_baseAlignment_iff {m : RegionMap} {n : RegionIx} :
    m.validate = some (.baseAlignment n) ↔ m.memorySize ≠ 0 ∧ m.Misaligned n ∧ ∀ i, i < n → ¬m.Misaligned i := by
  rcases m.validate_cases with ⟨hc, h⟩ | ⟨hc, hv, h⟩ | ⟨hc, hv, h⟩
  · simp [h, hc]
  · simp [h, not_misaligned_of_invalid hv]
  · simp [h, hc, Option.or_eq_some_iff, firstMisaligned_some]

theorem RegionMap.validate_beyondCapacity_iff {m : RegionMap} {n : RegionIx} :
    m.validate = some (.beyondCapacity n) ↔
      m.memorySize ≠ 0 ∧ (∀ i, ¬m.Misaligned i) ∧ m.Beyond n ∧ ∀ i, i < n → ¬m.Beyond i := by
  rcases m.validate_cases with ⟨hc, h⟩ | ⟨hc, hv, h⟩ | ⟨hc, hv, h⟩
  · simp [h, hc]
  · simp [h, not_beyond_of_invalid hv]
  · simp [h, hc, Option.or_eq_some_iff, firstMisaligned_none, firstBeyond_some]

theorem RegionMap.validate_overlap_iff {m : RegionMap} {i j : RegionIx} :
    m.validate = some (.overlap i j) ↔
      m.memorySize ≠ 0 ∧ (∀ n, ¬m.Misaligned n) ∧ (∀ n, ¬m.Beyond n) ∧ i < j ∧ m.Shared i j ∧
        (∀ k l, k < i → k < l → ¬m.Shared k l) ∧ ∀ l, i < l → l < j → ¬m.Shared i l := by
  rcases m.validate_cases with ⟨hc, h⟩ | ⟨hc, hv, h⟩ | ⟨hc, hv, h⟩
  · simp [h, hc]
  · simp [h, not_shared_of_invalid hv]
  · simp [h, hc, Option.or_eq_some_iff, firstMisaligned_none, firstBeyond_none, firstOverlap_some]

/-- Settles O48, from what the validation answers check by check. -/
theorem validationIsTheFiveChecks : Obligations.ValidationIsTheFiveChecks := by
  intro m
  simp only [← capacity_bytes]
  exact ⟨RegionMap.validate_none_iff, RegionMap.validate_noCapacity_iff, RegionMap.validate_noRegion_iff,
    fun _ => RegionMap.validate_baseAlignment_iff, fun _ => RegionMap.validate_beyondCapacity_iff,
    fun _ _ => RegionMap.validate_overlap_iff⟩

/-! ### The lookup in a validated map -/

/-- In a validated map at most one window holds an address (R7). -/
theorem RegionMap.covers_unique {m : RegionMap} (hm : m.validate = none) {i j : RegionIx} {a : Nat}
    (hi : m.regions[i].covers a = true) (hj : m.regions[j].covers a = true) : i = j := by
  obtain ⟨-, -, -, -, hshared⟩ := validate_none_iff.mp hm
  obtain ⟨hvi, hai⟩ := Region.covers_iff.mp hi
  obtain ⟨hvj, haj⟩ := Region.covers_iff.mp hj
  by_contra hne
  exact hshared i j hne ⟨hvi, hvj, a, hai, haj⟩

theorem RegionMap.matching_of_covers {m : RegionMap} (hm : m.validate = none) {n : RegionIx} {a : Nat}
    (hn : m.regions[n].covers a = true) : m.matching a = some n := by
  refine lowestFin_some.mpr ⟨hn, fun j hj => ?_⟩
  by_contra hc
  exact (ne_of_lt hj) (covers_unique hm (eq_true_of_ne_false hc) hn)

/-- A window of a validated map leads below the capacity (R14, check 4). -/
theorem RegionMap.mapped_lt_capacity {m : RegionMap} (hm : m.validate = none) {n : RegionIx} {a : Nat}
    (hn : m.regions[n].covers a = true) :
    m.regions[n].offset + (a - m.regions[n].base) < 32 * linesOfCode m.memorySize := by
  obtain ⟨-, -, -, hbeyond, -⟩ := validate_none_iff.mp hm
  obtain ⟨hv, hlo, hhi⟩ := Region.covers_iff.mp hn
  have hfit : ¬32 * linesOfCode m.memorySize < m.regions[n].offset + m.regions[n].size := fun h => hbeyond n ⟨hv, h⟩
  omega

/-- Settles O49: a validated map has one window for an address, and that window lies below the capacity. -/
theorem lookupFollowsTheOneDescriptor : Obligations.LookupFollowsTheOneDescriptor := by
  intro m who writes a hm
  refine ⟨fun hnone => ?_, fun n hn => ⟨?_, RegionMap.mapped_lt_capacity hm hn, fun hbase hoffset => ?_⟩⟩
  · have hmatch : m.matching a.toNat = none := lowestFin_none.mpr hnone
    simp only [RegionMap.lookup, hmatch]
  · simp only [RegionMap.lookup, RegionMap.matching_of_covers hm hn]
  · obtain ⟨-, hlo, -⟩ := Region.covers_iff.mp hn
    omega

end Sys2Proof.Machine

/-! ## SET-ITEM where the item is stored, and the bytes of a region descriptor (R5, R6, R179, R181, R184) -/

namespace Sys2Proof.Machine

theorem leValue_one (a : Byte) : leValue [a] = a.toNat := by simp [leValue]

theorem leValue_two (a b : Byte) : leValue [a, b] = a.toNat + 256 * b.toNat := by simp [leValue]

theorem leValue_four (a b c d : Byte) :
    leValue [a, b, c, d] = a.toNat + 256 * b.toNat + 65536 * c.toNat + 16777216 * d.toNat := by
  simp only [leValue]
  omega

theorem State.inConfig_of {s : State} (h : s.control.bridge = .config) : s.inConfig = true := by
  simp [State.inConfig, h]

theorem State.notRestarting_of {s : State} (h : s.control.bridge ≠ .restarting) : s.notRestarting = true := by
  simp [State.notRestarting, h]

/-- A frame of acceptable length whose command leaves `t` and answers OK without a payload. -/
theorem next_execute_of_okay {s t : State} {p : List Byte} {f : State → MgmtResult} (hp : p.length ≤ 40)
    (hf : f s = t.okay) : (.next (s.execute p f) : Host.Outcome State Fault Refusal) = .next (t.reply .ok []) := by
  rw [State.execute_of_le hp, hf, MgmtResult.replied_okay]

theorem State.writeItem_okay {s : State} {ok : Bool} {len v : Nat} {r : Nat → Bool} {p : List Byte} {f : Nat → State}
    (hok : ok = true) (hlen : p.length = len) (hv : leValue p = v) (hr : r v = true) :
    s.writeItem ok len r p f = (f v).okay := by
  subst hok hv
  exact State.writeItem_stores hlen hr

/-- An item of one byte, in a state that accepts it and with a value in its range. -/
theorem State.writeItem_byte {s : State} {ok : Bool} {a : Byte} {r : Nat → Bool} {f : Nat → State} (hok : ok = true)
    (hr : r a.toNat = true) : s.writeItem ok 1 r [a] f = (f a.toNat).okay :=
  State.writeItem_okay hok rfl (leValue_one a) hr

/-- An item of two bytes, in a state that accepts it and with a value in its range. -/
theorem State.writeItem_bytes {s : State} {ok : Bool} {a b : Byte} {r : Nat → Bool} {f : Nat → State} (hok : ok = true)
    (hr : r (a.toNat + 256 * b.toNat) = true) :
    s.writeItem ok 2 r [a, b] f = (f (a.toNat + 256 * b.toNat)).okay :=
  State.writeItem_okay hok rfl (leValue_two a b) hr

/-! ### One writable item each (R181) -/

section Items
variable {s : State} {lo hi : Byte}

theorem State.setMemorySize_stores (hb : s.control.bridge = .config) (hv : lo.toNat ≤ 11) :
    s.setMemorySize [lo] = (s.storeMemorySize lo.toNat).okay :=
  State.writeItem_byte (State.inConfig_of hb) (decide_eq_true hv)

theorem State.setRegion_stores {n : RegionIx} {p : List Byte} {r : Region} (hb : s.control.bridge = .config)
    (hr : regionOfBytes p = some r) : s.setRegion n p = (s.storeRegion n r).okay := by
  rw [State.setRegion, State.inConfig_of hb, hr, if_neg (by decide)]

theorem State.setCloseAhead_stores (hv : lo.toNat ≤ 8) : s.setCloseAhead [lo] =
    State.okay (State.settle { s with buffer := { s.buffer with closeAhead := lo.toNat } }) :=
  State.writeItem_byte rfl (decide_eq_true hv)

theorem State.setScrubPosition_stores {p : List Byte} (hp : p.length = 4) (hs : s.scrub.running = false)
    (hv : leValue p < s.capacityLines) :
    s.setScrubPosition p = State.okay { s with scrub := { s.scrub with position := leValue p } } :=
  State.writeItem_okay (by rw [hs, Bool.not_false]) hp rfl (decide_eq_true hv)

theorem State.setCorrectedCount_stores :
    s.setCorrectedCount [lo, hi] = State.okay { s with port := { s.port with correctedCount := 0 } } :=
  State.writeItem_bytes rfl rfl

theorem State.setFrameErrors_stores :
    s.setFrameErrors [lo] = State.okay { s with mgmt := { s.mgmt with frameErrors := 0 } } :=
  State.writeItem_byte rfl rfl

/-- A mask of EVENT-ENABLE or EVENT-LEVEL that keeps source 1 (R167). -/
theorem maskInRange_odd {v : Nat} (hv : v < 4096) (hodd : v % 2 = 1) : (maskInRange v && v % 2 == 1) = true := by
  simp [maskInRange, hv, hodd]

theorem State.setEventEnable_stores (hb : s.control.bridge ≠ .restarting) (hv : lo.toNat + 256 * hi.toNat < 4096)
    (hodd : (lo.toNat + 256 * hi.toNat) % 2 = 1) : s.setEventEnable [lo, hi] = State.okay { s with
      events := { s.events with enable := BitVec.ofNat 12 (lo.toNat + 256 * hi.toNat) }.recompute } :=
  State.writeItem_bytes (State.notRestarting_of hb) (maskInRange_odd hv hodd)

theorem State.setEventLevel_stores (hb : s.control.bridge ≠ .restarting) (hv : lo.toNat + 256 * hi.toNat < 4096)
    (hodd : (lo.toNat + 256 * hi.toNat) % 2 = 1) : s.setEventLevel [lo, hi] = State.okay { s with
      events := { s.events with urgent := BitVec.ofNat 12 (lo.toNat + 256 * hi.toNat) }.recompute } :=
  State.writeItem_bytes (State.notRestarting_of hb) (maskInRange_odd hv hodd)

theorem State.setEventPending_stores (hb : s.control.bridge ≠ .restarting) (hv : lo.toNat + 256 * hi.toNat < 4096) :
    s.setEventPending [lo, hi] =
      State.okay { s with events := s.events.clear (BitVec.ofNat 12 (lo.toNat + 256 * hi.toNat)) } :=
  State.writeItem_bytes (State.notRestarting_of hb) (decide_eq_true hv)

theorem State.setAgeLimit_stores (hv : lo.toNat + 256 * hi.toNat ≤ 1023) : s.setAgeLimit [lo, hi] =
    State.okay { s with buffer := { s.buffer with ageLimit := lo.toNat + 256 * hi.toNat } } :=
  State.writeItem_bytes rfl (decide_eq_true hv)

theorem State.setResponseTimeout_stores (hb : s.control.bridge = .config) (hv : 1 ≤ lo.toNat) :
    s.setResponseTimeout [lo] = State.okay { s with port := { s.port with responseTimeout := lo.toNat } } :=
  State.writeItem_byte (State.inConfig_of hb) (decide_eq_true ⟨hv, Nat.le_of_lt_succ lo.isLt⟩)

theorem State.setRetryLimit_stores (hb : s.control.bridge = .config) (hv : lo.toNat ≤ 3) :
    s.setRetryLimit [lo] = State.okay { s with port := { s.port with retryLimit := lo.toNat } } :=
  State.writeItem_byte (State.inConfig_of hb) (decide_eq_true hv)

theorem State.setHaltThreshold_stores (hb : s.control.bridge = .config) (hmin : 1 ≤ lo.toNat) (hmax : lo.toNat ≤ 15) :
    s.setHaltThreshold [lo] = State.okay { s with port := { s.port with haltThreshold := lo.toNat } } :=
  State.writeItem_byte (State.inConfig_of hb) (decide_eq_true ⟨hmin, hmax⟩)

theorem State.setScrubInterval_stores (hv : 1 ≤ lo.toNat + 256 * hi.toNat) : s.setScrubInterval [lo, hi] =
    State.okay { s with scrub := { s.scrub with interval := lo.toNat + 256 * hi.toNat } } :=
  State.writeItem_bytes rfl (decide_eq_true hv)

theorem State.setLogCorrected_stores (hv : lo.toNat ≤ 1) : s.setLogCorrected [lo] =
    State.okay { s with port := { s.port with logCorrected := lo.toNat == 1 } } :=
  State.writeItem_byte rfl (decide_eq_true hv)

end Items

/-! ### The bytes of a region descriptor (R5, R6, R184) -/

theorem attrOfCode_of_gt : ∀ {n : Nat}, 3 < n → attrOfCode n = none
  | _ + 4, _ => rfl

/-- The codes 0 to 3 name COMBINE, DIRECT, READ-ONLY and CLOSED (R184). -/
theorem attrOfCode_eq_some_iff {a : Byte} {attr : Attr} : attrOfCode a.toNat = some attr ↔ a.toNat ≤ 3 ∧
    attr = if a = 0 then .combine else if a = 1 then .direct else if a = 2 then .readOnly else .closed := by
  by_cases ha : a.toNat ≤ 3
  · obtain rfl | rfl | rfl | rfl : a = 0 ∨ a = 1 ∨ a = 2 ∨ a = 3 := by bv_omega
    all_goals simp [attrOfCode, eq_comm]
  · simp [attrOfCode_of_gt (Nat.not_le.mp ha), ha]

theorem Byte.toNat_le_one_iff {v : Byte} : v.toNat ≤ 1 ↔ v = 0 ∨ v = 1 := by bv_omega

/-- The valid byte as a flag. -/
theorem Byte.toNat_beq_one (v : Byte) : (v.toNat == 1) = (v == 1) := by
  rw [Bool.eq_iff_iff, beq_iff_eq, beq_iff_eq]
  bv_omega

theorem regionOfBytes_of_length_ne {p : List Byte} (hp : p.length ≠ 12) : regionOfBytes p = none := by
  unfold regionOfBytes
  split
  · exact absurd rfl hp
  · rfl

theorem length_le_of_region {p : List Byte} {r : Region} (hr : regionOfBytes p = some r) : p.length ≤ 40 := by
  have hp : p.length = 12 := by
    by_contra hne
    exact Option.some_ne_none r (hr.symm.trans (regionOfBytes_of_length_ne hne))
  omega

/-- Twelve bytes are a descriptor when their code names what the window allows and every field is in range (R6). -/
theorem regionOfBytes_eq_some_iff {v a z m b0 b1 b2 b3 o0 o1 o2 o3 : Byte} {r : Region} :
    regionOfBytes [v, a, z, m, b0, b1, b2, b3, o0, o1, o2, o3] = some r ↔
      ∃ attr, attrOfCode a.toNat = some attr ∧
        (v.toNat ≤ 1 ∧ z.toNat ≤ 14 ∧ leValue [b0, b1, b2, b3] % 4096 = 0 ∧ leValue [b0, b1, b2, b3] ≤ 2 ^ 32 - 4096 ∧
          leValue [o0, o1, o2, o3] % 4096 = 0 ∧ leValue [o0, o1, o2, o3] ≤ 2 ^ 26 - 4096) ∧
        r = ⟨v.toNat == 1, leValue [b0, b1, b2, b3], z.toNat, leValue [o0, o1, o2, o3], attr, m⟩ := by
  simp only [regionOfBytes]
  cases attrOfCode a.toNat with
  | none => simp
  | some attr => simp only [Option.ite_none_right_eq_some, Option.some.injEq, exists_eq_left', eq_comm (b := r)]

/-- Settles O51: each writable item from its own lemma, then the fields of a descriptor one by one. -/
theorem setItemStoresTheValue : Obligations.SetItemStoresTheValue := by
  refine ⟨fun s p lo hi n r => ?_, fun v a z m b0 b1 b2 b3 o0 o1 o2 o3 p r => ⟨?_, regionOfBytes_of_length_ne⟩⟩
  · have one : ([lo] : List Byte).length ≤ 40 := by simp
    have two : ([lo, hi] : List Byte).length ≤ 40 := by simp
    exact ⟨fun hb hv => next_execute_of_okay one (State.setMemorySize_stores hb hv),
      fun hb hr => next_execute_of_okay (length_le_of_region hr) (State.setRegion_stores hb hr),
      fun hv => next_execute_of_okay one (State.setCloseAhead_stores hv),
      fun hp hs hv => next_execute_of_okay (by omega) (State.setScrubPosition_stores hp hs hv),
      next_execute_of_okay two State.setCorrectedCount_stores,
      next_execute_of_okay one State.setFrameErrors_stores,
      fun hv hodd hb => ⟨next_execute_of_okay two (State.setEventEnable_stores hb hv hodd),
        next_execute_of_okay two (State.setEventLevel_stores hb hv hodd)⟩,
      fun hv hb => next_execute_of_okay two (State.setEventPending_stores hb hv),
      fun hv => next_execute_of_okay two (State.setAgeLimit_stores hv),
      fun hb hv => next_execute_of_okay one (State.setResponseTimeout_stores hb hv),
      fun hb hv => next_execute_of_okay one (State.setRetryLimit_stores hb hv),
      fun hb hmin hmax => next_execute_of_okay one (State.setHaltThreshold_stores hb hmin hmax),
      fun hv => next_execute_of_okay two (State.setScrubInterval_stores hv),
      fun hv => next_execute_of_okay one (State.setLogCorrected_stores hv)⟩
  · simp only [regionOfBytes_eq_some_iff, attrOfCode_eq_some_iff, leValue_four, Byte.toNat_le_one_iff,
      Byte.toNat_beq_one]
    constructor
    · rintro ⟨attr, ⟨ha, rfl⟩, ⟨hv, hz, hb, hbmax, ho, homax⟩, hr⟩
      exact ⟨hv, ha, hz, hb, ho, hbmax, homax, hr⟩
    · rintro ⟨hv, ha, hz, hb, ho, hbmax, homax, hr⟩
      exact ⟨_, ⟨ha, rfl⟩, ⟨hv, hz, hb, hbmax, ho, homax⟩, hr⟩

end Sys2Proof.Machine

/-! ## A lane with the words of its line (R1, R2, R53-R56, R59, R127-R129) -/

namespace Sys2Proof.Machine

/-- The least index that passes a test is the one found. -/
theorem lowestFin_of_least {n : Nat} {p : Fin n → Bool} {i : Fin n} (hi : p i = true) (hleast : ∀ j, p j = true → i ≤ j) :
    lowestFin n p = some i :=
  lowestFin_some.mpr ⟨hi, fun j hj => Bool.eq_false_iff.mpr fun hpj => absurd hj (not_lt.mpr (hleast j hpj))⟩

/-! ### The words a drain finds bad (R54-R56) -/

theorem ReadWord.bad_iff {w : ReadWord} : w.bad = true ↔ w.cls = .uncorrectable := by
  rw [ReadWord.bad, beq_iff_eq]

section DrainWords
variable {v : PosSet} {ws : Vector ReadWord 4} {w : WordIx}

theorem bad_not_covered_iff :
    (ws[w].bad && !covered v w) = true ↔ ws[w].cls = .uncorrectable ∧ ¬covered v w = true := by
  rw [Bool.and_eq_true, ReadWord.bad_iff, Bool.not_eq_true', Bool.not_eq_true]

theorem bad_covered_iff : (ws[w].bad && covered v w) = true ↔ ws[w].cls = .uncorrectable ∧ covered v w = true := by
  rw [Bool.and_eq_true, ReadWord.bad_iff]

theorem badUncovered_eq_none (h : ∀ u : WordIx, ws[u].cls = .uncorrectable → covered v u = true) :
    badUncovered v ws = none :=
  lowestFin_none.mpr fun u => Bool.eq_false_iff.mpr fun hu =>
    (bad_not_covered_iff.mp hu).2 (h u (bad_not_covered_iff.mp hu).1)

theorem badUncovered_eq_some (hb : ws[w].cls = .uncorrectable) (hc : ¬covered v w = true)
    (hlow : ∀ u : WordIx, ws[u].cls = .uncorrectable → ¬covered v u = true → w ≤ u) : badUncovered v ws = some w :=
  lowestFin_of_least (bad_not_covered_iff.mpr ⟨hb, hc⟩) fun u hu =>
    hlow u (bad_not_covered_iff.mp hu).1 (bad_not_covered_iff.mp hu).2

/-- No UNCORRECTABLE word: a drain's write logs nothing (R55). -/
theorem drainWriteFault_of_good (o : Operation) (h : ∀ u : WordIx, ¬ws[u].cls = .uncorrectable) :
    drainWriteFault o v ws = none := by
  have hcov : badCovered v ws = none := lowestFin_none.mpr fun u => Bool.eq_false_iff.mpr fun hu =>
    h u (bad_covered_iff.mp hu).1
  rw [drainWriteFault, badUncovered_eq_none fun u hu => absurd hu (h u), hcov, Option.map_none]

/-- Every UNCORRECTABLE word is covered, and `w` is the lowest: its bytes are overwritten (R55). -/
theorem drainWriteFault_of_covered (o : Operation) (hb : ws[w].cls = .uncorrectable)
    (h : ∀ u : WordIx, ws[u].cls = .uncorrectable → covered v u = true ∧ w ≤ u) :
    drainWriteFault o v ws = some (mergeFault o .overwritten w) := by
  have hcov : badCovered v ws = some w := lowestFin_of_least (bad_covered_iff.mpr ⟨hb, (h w hb).1⟩) fun u hu =>
    (h u (bad_covered_iff.mp hu).1).2
  rw [drainWriteFault, badUncovered_eq_none fun u hu => (h u hu).1, hcov, Option.map_some]

/-- `w` is the lowest UNCORRECTABLE word that is not covered: it is written all the same (R56). -/
theorem drainWriteFault_of_uncovered (o : Operation) (h : badUncovered v ws = some w) :
    drainWriteFault o v ws = some (mergeFault o .forced w) := by
  rw [drainWriteFault, h]

end DrainWords

/-- The merged line: the entry's bytes over those read (R55). -/
theorem overlayBytes_readBytes (v : PosSet) (d : LineBytes) (ws : Vector ReadWord 4) :
    overlayBytes v d (readBytes ws) = Vector.ofFn fun p => if v.getLsbD p then d[p] else byteAt ws p := by
  simp [overlayBytes, readBytes]

/-! ### What a lane does with a line read (R52, R54-R56, R59, R127-R129) -/

section LaneRead
variable {s : State} {k : LaneIx} {o : Operation} {ws : Vector ReadWord 4}

theorem State.goOn_restarting {L : Nat} {bytes : LineBytes} {f : Option FaultRecord} (h : s.control.bridge = .restarting) :
    s.goOn k L bytes f = s.setLane k (.busy .stopped) := if_pos h

theorem State.goOn_of_ne {L : Nat} {bytes : LineBytes} {f : Option FaultRecord} (h : s.control.bridge ≠ .restarting) :
    s.goOn k L bytes f = (s.logFault? f).handOver k (.lineWrite (lineWords bytes)) L := if_neg h

theorem State.laneRead_drain {d : DrainKind} {e : EntryIx} (ho : s.laneOp k = some o) (hw : o.work = .drain d e) :
    s.laneRead k ws = s.drainRead k o d e ws := by
  simp only [State.laneRead, ho, hw]

theorem State.laneRead_scrub (ho : s.laneOp k = some o) (hw : o.work = .scrub) :
    s.laneRead k ws = s.scrubRead k o ws := by
  simp only [State.laneRead, ho, hw]

/-- A drain that is forced, or finds no uncovered bad word, goes on to its LINE-WRITE (R55, R56). -/
theorem State.drainRead_goesOn {d : DrainKind} {e : EntryIx}
    (h : badUncovered s.buffer.entries[e].valid ws = none ∨ d = .forceWrite) :
    s.drainRead k o d e ws = s.goOn k o.line
      (Vector.ofFn fun p => if s.buffer.entries[e].valid.getLsbD p then s.buffer.entries[e].data[p] else byteAt ws p)
      (drainWriteFault o s.buffer.entries[e].valid ws) := by
  rw [← overlayBytes_readBytes]
  rcases h with h | rfl
  · cases d <;> simp only [State.drainRead, h]
  · rfl

/-- A MERGE-WRITE with an uncovered bad word fails (R54): its fault is logged, its operation leaves the list, its entry gets
the failure and its lane becomes IDLE. -/
theorem State.drainRead_fails {e : EntryIx} {w : WordIx} (hw : o.work = .drain .mergeWrite e)
    (h : badUncovered s.buffer.entries[e].valid ws = some w) :
    s.drainRead k o .mergeWrite e ws =
      { ((s.logFault (mergeFault o .notCovered w)).removeLaneOp k).drainFails e .uncorrectable
          (.drain .mergeWrite, o.queuedOrder) (some w) with lanes := s.lanes.set k .idle } := by
  have hlabel : o.label = (.drain .mergeWrite, o.queuedOrder) := by rw [Operation.label, hw, Work.kind]
  simp only [State.drainRead, h, State.completeDrain, hlabel, State.setLane, State.drainFails_lanes]
  rfl

theorem countWords_eq_zero {p : ReadWord → Bool} (h : ∀ w : WordIx, p ws[w] = false) : countWords ws p = 0 :=
  countFin_zero.mpr h

theorem countWords_ne_zero {p : ReadWord → Bool} {w : WordIx} (h : p ws[w] = true) : countWords ws p ≠ 0 :=
  fun h0 => Bool.false_ne_true ((countFin_zero.mp h0 w).symm.trans h)

/-- A SCRUB with an UNCORRECTABLE word completes with SCRUB-UNCORRECTABLE (R129). -/
theorem State.scrubRead_bad {w : WordIx} (hb : ws[w].cls = .uncorrectable) :
    s.scrubRead k o ws = s.completeScrub k (some (scrubFault o ws)) :=
  if_pos (countWords_ne_zero (ReadWord.bad_iff.mpr hb))

theorem countWords_bad_eq_zero (h : ∀ w : WordIx, ¬ws[w].cls = .uncorrectable) : countWords ws (·.bad) = 0 :=
  countWords_eq_zero fun w => Bool.eq_false_iff.mpr (mt ReadWord.bad_iff.mp (h w))

/-- A SCRUB with a CORRECTED word and no bad one writes the line back (R128). -/
theorem State.scrubRead_corrected {w : WordIx} {q : Nat} (hgood : ∀ w : WordIx, ¬ws[w].cls = .uncorrectable)
    (hq : ws[w].cls = .corrected q) : s.scrubRead k o ws = s.goOn k o.line (readBytes ws) none := by
  have hfixed : ws[w].fixed = true := by rw [ReadWord.fixed, hq]
  rw [State.scrubRead, if_neg (not_not.mpr (countWords_bad_eq_zero hgood)), if_pos (countWords_ne_zero hfixed)]

/-- A SCRUB of a CLEAN line completes (R127). -/
theorem State.scrubRead_clean (h : ∀ w : WordIx, ws[w].cls = .clean) : s.scrubRead k o ws = s.completeScrub k none := by
  have hgood : countWords ws (·.bad) = 0 := countWords_bad_eq_zero fun w => by rw [h w]; decide
  have hfixed : countWords ws (·.fixed) = 0 := countWords_eq_zero fun w => by rw [ReadWord.fixed, h w]
  rw [State.scrubRead, if_neg (not_not.mpr hgood), if_neg (not_not.mpr hfixed)]

theorem scrubFault_of_lowest {w : WordIx} (hb : ws[w].cls = .uncorrectable)
    (hlow : ∀ u : WordIx, ws[u].cls = .uncorrectable → w ≤ u) :
    scrubFault o ws = { FaultRecord.of (.scrubUncorrectable (countWords ws (·.bad)) (countWords ws (·.fixed))) with
      line := some o.line, word := some w, operation := some o.label } := by
  have hword : lowestWord (fun w => ws[w].bad) = some w :=
    lowestFin_of_least (ReadWord.bad_iff.mpr hb) fun u hu => hlow u (ReadWord.bad_iff.mp hu)
  rw [scrubFault, hword]

end LaneRead

theorem State.laneWritten_scrub {s : State} {k : LaneIx} {o : Operation} (ho : s.laneOp k = some o) (hw : o.work = .scrub) :
    s.laneWritten k = s.completeScrub k none := by
  simp only [State.laneWritten, ho, hw]

/-- DONE of a SCRUB's LINE-WRITE: the port is IDLE with its failure count 0, and the scrub completes (R109, R128). -/
theorem exec_arrayDone_scrub {s : State} {words w : Vector CodedWord 4} {c : InProgress} {tm : Nat} {o : Operation}
    (hp : s.port.condition = .issued c tm) (hc : c.cmd = .lineWrite w) (ho : s.laneOp c.lane = some o)
    (hw : o.work = .scrub) : exec (.arrayDone words) s = .next (State.settle
      (({ s with port := { s.port with failures := 0 } }.setPort .idle).completeScrub c.lane none)) := by
  have hop : ({ s with port := { s.port with failures := 0 } }.setPort .idle).laneOp c.lane = some o := ho
  rw [← State.laneWritten_scrub hop hw]
  simp only [exec, execArrayDone, State.arrayDone, hp, State.done, hc]

/-- Byte `j` of word `w` of four words is the byte at position 8w + j (R1, R2). -/
theorem byteAt_word (ws : Vector ReadWord 4) (w : WordIx) (j : Fin 8) :
    byteAt ws (8 * w.val + j.val) = ws[w].data.extractLsb' (8 * j.val) 8 := by
  have hw : wordOfPos (8 * w.val + j.val) = w := Fin.ext (by simp only [wordOfPos]; omega)
  have hj : (8 * w.val + j.val) % 8 = j.val := by omega
  simp only [byteAt, hw, hj, wordByte]

theorem lineWords_byte (d : LineBytes) (w : WordIx) (j : Fin 8) :
    (lineWords d)[w].extractLsb' (8 * j.val) 8 = d[8 * w.val + j.val]'(by omega) := by
  have hw : (lineWords d)[w] = lineWord d w := by simp [lineWords]
  rw [hw, ← wordByte_lineWord, wordByte]

/-- Settles O37: the drain's and the scrub's outcomes case by case, the end of a scrub's write, and the order of bytes. -/
theorem lanesActOnTheWordsRead : Obligations.LanesActOnTheWordsRead := by
  refine ⟨fun s k o ws ho => ⟨fun d e hw _ => ?_, fun hw => ?_⟩, fun s words c w tm o hp hc ho hw => ?_,
    fun d ws w j => ⟨lineWords_byte d w j, byteAt_word ws w j⟩⟩
  · simp only [← covered_iff, State.laneRead_drain ho hw]
    refine ⟨fun hgo hgood => ?_, fun w hgo hb hcov => ?_, fun hstop hcov => ?_, fun w hb hc hlow => ?_⟩
    · rw [State.drainRead_goesOn (.inl (badUncovered_eq_none fun u hu => absurd hu (hgood u))),
        State.goOn_of_ne hgo, drainWriteFault_of_good o hgood]
      rfl
    · rw [State.drainRead_goesOn (.inl (badUncovered_eq_none fun u hu => (hcov u hu).1)), State.goOn_of_ne hgo,
        drainWriteFault_of_covered o hb hcov]
      rfl
    · rw [State.drainRead_goesOn (hcov.imp_left badUncovered_eq_none), State.goOn_restarting (not_not.mp hstop)]
      rfl
    · have hfirst := badUncovered_eq_some hb hc hlow
      refine ⟨fun hd => ?_, fun hd hgo => ?_⟩
      · subst hd
        rw [State.drainRead_fails hw hfirst]
        rfl
      · rw [State.drainRead_goesOn (.inr hd), State.goOn_of_ne hgo, drainWriteFault_of_uncovered o hfirst]
        rfl
  · simp only [State.laneRead_scrub ho hw]
    refine ⟨fun hclean => ?_, fun w q hgood hq => ⟨fun hgo => ?_, fun hstop => ?_⟩, fun w hb hlow => ?_⟩
    · rw [State.scrubRead_clean hclean]
      rfl
    · rw [State.scrubRead_corrected hgood hq, State.goOn_of_ne hgo]
      rfl
    · rw [State.scrubRead_corrected hgood hq, State.goOn_restarting (not_not.mp hstop)]
      rfl
    · rw [State.scrubRead_bad hb, scrubFault_of_lowest hb hlow]
      rfl
  · rw [exec_arrayDone_scrub hp hc ho hw]
    rfl

end Sys2Proof.Machine

/-! ## What a change does to the combine buffer (R18, R20, R23, R28-R30, R34, R35, R96-R104) -/

namespace Sys2Proof.Machine

/-- A vector's element after one place was set. -/
theorem getElem_set_fin {α : Type} {n : Nat} (v : Vector α n) (e j : Fin n) (x : α) :
    (v.set e x)[j] = if e = j then x else v[j] := by
  simp [Vector.getElem_set, Fin.ext_iff]

/-! ### Changes of one entry -/

/-- The entry committed (R30). -/
def Entry.commit (x : Entry) : Entry := { x with state := .committed, ageTimer := none, closePending := false }

/-- The entry DRAINING (R34). -/
def Entry.start (x : Entry) : Entry := { x with state := .draining }

/-- The HELD entry COMMITTED again (R103, R104). -/
def Entry.recommit (x : Entry) : Entry := { x with state := .committed, heldReason := none }

/-- The entry HELD for a reason (R96). -/
def Entry.hold (r : HeldReason) (x : Entry) : Entry :=
  { x with state := .held, heldReason := some r, closePending := false, ageTimer := none }

/-- The entry with the bytes of its successor `y` over its own (R98). -/
def Entry.absorbing (y x : Entry) : Entry :=
  { x with
    data := overlayBytes y.valid y.data x.data
    valid := x.valid ||| y.valid
    contributors := x.contributors ||| y.contributors }

/-- An entry just opened for line `L`, before a write's bytes are stored (R23). -/
def Entry.opening (L : Nat) (order : BitVec 16) (timer : Option Nat) : Entry :=
  { Entry.free with state := .opened, line := some L, openedOrder := some order, ageTimer := timer }

/-- Entry `e` is replaced; the open order stays. -/
def CombineBuffer.put (b : CombineBuffer) (e : EntryIx) (x : Entry) : CombineBuffer :=
  { b with entries := b.entries.set e x }

/-- Entry `e` is replaced and leaves the open order list. -/
def CombineBuffer.retire (b : CombineBuffer) (e : EntryIx) (x : Entry) : CombineBuffer :=
  { b with entries := b.entries.set e x, openOrder := b.openOrder.filter (· != e) }

/-- Entry `e` is opened as `x` and joins the open order list at its end. -/
def CombineBuffer.enlist (b : CombineBuffer) (e : EntryIx) (x : Entry) : CombineBuffer :=
  { b with entries := b.entries.set e x, openOrder := b.openOrder ++ [e], counter := b.counter + 1 }

theorem CombineBuffer.put_entry (b : CombineBuffer) (e j : EntryIx) (x : Entry) :
    (b.put e x).entries[j] = if e = j then x else b.entries[j] := getElem_set_fin b.entries e j x

theorem CombineBuffer.enlist_entry (b : CombineBuffer) (e j : EntryIx) (x : Entry) :
    (b.enlist e x).entries[j] = if e = j then x else b.entries[j] := getElem_set_fin b.entries e j x

theorem CombineBuffer.retire_entry (b : CombineBuffer) (e j : EntryIx) (x : Entry) :
    (b.retire e x).entries[j] = if e = j then x else b.entries[j] := getElem_set_fin b.entries e j x

/-! ### What a line's lookups answer -/

theorem CombineBuffer.openEntry_spec {b : CombineBuffer} {L : Nat} {f : EntryIx} (h : b.openEntry L = some f) :
    b.entries[f].state = .opened ∧ b.entries[f].line = some L :=
  (CombineBuffer.entryOf_spec h).imp_left eq_of_beq

theorem CombineBuffer.heldEntry_spec {b : CombineBuffer} {L : Nat} {f : EntryIx} (h : b.heldEntry L = some f) :
    b.entries[f].state = .held ∧ b.entries[f].line = some L :=
  (CombineBuffer.entryOf_spec h).imp_left eq_of_beq

theorem CombineBuffer.not_open_of_none {b : CombineBuffer} {L : Nat} (h : b.openEntry L = none) {j : EntryIx}
    (hl : b.entries[j].line = some L) : b.entries[j].state ≠ .opened :=
  fun ho => CombineBuffer.entryOf_none h j (beq_iff_eq.mpr ho) hl

theorem CombineBuffer.not_held_of_none {b : CombineBuffer} {L : Nat} (h : b.heldEntry L = none) {j : EntryIx}
    (hl : b.entries[j].line = some L) : b.entries[j].state ≠ .held :=
  fun hh => CombineBuffer.entryOf_none h j (beq_iff_eq.mpr hh) hl

theorem CombineBuffer.lowestFree_spec {b : CombineBuffer} {e : EntryIx} (h : b.lowestFree = some e) :
    b.entries[e].state = .free :=
  eq_of_beq (lowestFin_some.mp h).1

/-- The entry a write's lookup names is not FREE. -/
theorem CombineBuffer.state_ne_free_of_open_or_held {b : CombineBuffer} {e : EntryIx} {L : Nat}
    (h : b.openEntry L = some e ∨ b.heldEntry L = some e) : b.entries[e].state ≠ .free := by
  rcases h with h | h
  · rw [(CombineBuffer.openEntry_spec h).1]; decide
  · rw [(CombineBuffer.heldEntry_spec h).1]; decide

section Replaced
variable {b b' : CombineBuffer} {e f : EntryIx} {L : Nat} {x : Entry}

/-- An OPEN entry found after another entry was replaced by one that is not OPEN stood there before. -/
theorem CombineBuffer.openEntry_of_set (hb : b'.entries = b.entries.set e x) (hx : x.state ≠ .opened)
    (h : b'.openEntry L = some f) : f ≠ e ∧ b'.entries[f] = b.entries[f] := by
  obtain ⟨ho, -⟩ := CombineBuffer.openEntry_spec h
  simp only [hb, getElem_set_fin] at ho ⊢
  split at ho
  · exact absurd ho hx
  · next hef => exact ⟨Ne.symm hef, if_neg hef⟩

/-- No OPEN entry found after an entry was replaced: none stands elsewhere. -/
theorem CombineBuffer.openEntry_none_of_set (hb : b'.entries = b.entries.set e x) (h : b'.openEntry L = none)
    {j : EntryIx} (hj : j ≠ e) (hl : b.entries[j].line = some L) : b.entries[j].state ≠ .opened := by
  have hkeep : b'.entries[j] = b.entries[j] := by simp only [hb, getElem_set_fin, if_neg hj.symm]
  rw [← hkeep] at hl ⊢
  exact CombineBuffer.not_open_of_none h hl

end Replaced

/-- Folding: the order in which the HELD entry is written and its successor freed does not matter. -/
theorem CombineBuffer.put_put_retire {b : CombineBuffer} {e f : EntryIx} (h : f ≠ e) (x y z : Entry) :
    ((b.put e x).put e y).retire f z = (b.retire f z).put e y := by
  have hne : e.val ≠ f.val := fun hv => h (Fin.ext hv.symm)
  simp only [CombineBuffer.put, CombineBuffer.retire, Vector.set_set, Vector.set_comm _ _ hne]

/-- Everything a change of the state can do to the combine buffer, with what holds when it is done. -/
inductive BufferMove (b : CombineBuffer) : CombineBuffer → Prop where
  | keeps : BufferMove b b
  | limits (a c : Nat) : BufferMove b { b with ageLimit := a, closeAhead := c }
  | empties (b' : CombineBuffer) : b'.entries = Vector.replicate 16 Entry.free → b'.openOrder = [] → BufferMove b b'
  | ticks : BufferMove b { b with entries := Vector.ofFn fun e => b.entries[e].tick }
  | stores (e : EntryIx) (p : Nat) (bytes : List Byte) (m : MasterIx) : 1 ≤ bytes.length → p < 32 →
      b.entries[e].state ≠ .free → BufferMove b (b.put e (b.entries[e].store p bytes m))
  | opens (e : EntryIx) (L p : Nat) (bytes : List Byte) (m : MasterIx) : 1 ≤ bytes.length → p < 32 →
      b.openEntry L = none → b.heldEntry L = none → b.entries[e].state = .free →
      BufferMove b (b.enlist e ((Entry.opening L b.counter b.newTimer).store p bytes m))
  | pends (e : EntryIx) : b.entries[e].state = .opened →
      BufferMove b (b.put e { b.entries[e] with closePending := true })
  | ages (e : EntryIx) : b.entries[e].state = .opened →
      BufferMove b (b.put e { b.entries[e] with ageTimer := some 0 })
  | commits (e : EntryIx) (L : Nat) : b.entries[e].state = .opened → b.entries[e].line = some L →
      b.predecessor L = none → BufferMove b (b.retire e b.entries[e].commit)
  | starts (e : EntryIx) : b.entries[e].state = .committed →
      BufferMove b (b.put e b.entries[e].start)
  | frees (e : EntryIx) : BufferMove b (b.retire e Entry.free)
  | succeeds (e f : EntryIx) (L : Nat) : b.entries[e].state = .draining → b.entries[e].line = some L → f ≠ e →
      b.entries[f].state = .opened → b.entries[f].line = some L →
      BufferMove b ((b.retire e Entry.free).retire f b.entries[f].commit)
  | holds (e : EntryIx) (L : Nat) (r : HeldReason) : b.entries[e].state = .draining → b.entries[e].line = some L →
      (∀ j, j ≠ e → b.entries[j].line = some L → b.entries[j].state ≠ .opened) →
      BufferMove b (b.put e (b.entries[e].hold r))
  | folds (e f : EntryIx) (L : Nat) (r : HeldReason) : b.entries[e].state = .draining → b.entries[e].line = some L →
      f ≠ e → b.entries[f].state = .opened → b.entries[f].line = some L →
      BufferMove b ((b.retire f Entry.free).put e (b.entries[f].absorbing (b.entries[e].hold r)))
  | recommits (e : EntryIx) : b.entries[e].state = .held →
      BufferMove b (b.put e b.entries[e].recommit)

/-! ### The buffer after each operation -/

section Buffers
variable (s : State)

theorem State.commit_buffer (e : EntryIx) (L : Nat) :
    (s.commit e L).buffer = s.buffer.retire e s.buffer.entries[e].commit := rfl

theorem State.allocate_buffer (e : EntryIx) (L p : Nat) (bytes : List Byte) (m : MasterIx) :
    (s.allocate e L p bytes m).buffer =
      s.buffer.enlist e ((Entry.opening L s.buffer.counter s.buffer.newTimer).store p bytes m) := rfl

theorem State.logFault?_buffer (f : Option FaultRecord) : (s.logFault? f).buffer = s.buffer := by
  cases f <;> rfl

theorem State.attachFill_buffer (r : ReadIx) (L : Nat) : (s.attachFill r L).buffer = s.buffer := by
  unfold State.attachFill
  split
  · split <;> rfl
  · rfl

theorem State.placeRead_buffer (i : ReadIx) : (s.placeRead i).buffer = s.buffer := by
  unfold State.placeRead
  split <;> rfl

theorem State.placeBit_buffer (i : BitIx) : (s.placeBit i).buffer = s.buffer := by
  unfold State.placeBit
  split <;> rfl

theorem State.issue_buffer : s.issue.buffer = s.buffer := by
  unfold State.issue
  split <;> rfl

theorem State.goOn_buffer (k : LaneIx) (L : Nat) (bytes : LineBytes) (f : Option FaultRecord) :
    (s.goOn k L bytes f).buffer = s.buffer := by
  unfold State.goOn
  split
  · rfl
  · exact s.logFault?_buffer f

theorem State.answerReaders_buffer (readers : List ReadIx) (f : ReadReq → RecordStatus × List Byte) :
    (s.answerReaders readers f).buffer = s.buffer := by
  unfold State.answerReaders
  dsimp only
  split <;> rfl

theorem State.completeBitOp_buffer (k : LaneIx) (i : BitIx) (st : RecordStatus) (d : List Byte)
    (f : Option FaultRecord) : (s.completeBitOp k i st d f).buffer = s.buffer := by
  unfold State.completeBitOp
  dsimp only
  rw [State.setLane_buffer, State.logFault?_buffer]
  split <;> rfl

theorem State.completeScrub_buffer (k : LaneIx) (f : Option FaultRecord) : (s.completeScrub k f).buffer = s.buffer :=
  (s.removeLaneOp k).logFault?_buffer f

theorem State.advanceScrub_buffer : s.advanceScrub.buffer = s.buffer := by
  unfold State.advanceScrub
  split <;> rfl

theorem State.backToQuiescing_buffer : s.backToQuiescing.buffer = s.buffer := by
  unfold State.backToQuiescing
  split <;> rfl

/-- A dispatch moves the entry of a drain from COMMITTED to DRAINING, or leaves the buffer alone (R34). -/
theorem State.startWork_bufferMove (w : Work) : BufferMove s.buffer (s.startWork w).buffer := by
  unfold State.startWork
  split
  · next e =>
    unfold State.startDrain
    dsimp only
    split
    · split
      · next hs => exact .starts e hs
      · exact .keeps
    · exact .keeps
  · unfold State.startBitOp
    split <;> exact .keeps
  · exact .keeps
  · exact .keeps

theorem State.takeOp_bufferMove (k : LaneIx) (i : Nat) : BufferMove s.buffer (s.takeOp k i).buffer := by
  unfold State.takeOp
  split
  · exact .keeps
  · next o _ => exact State.startWork_bufferMove { s with opList := s.opList.take i k } o.work

/-- A drain that succeeds frees its entry, and commits a close-pending successor (R35). -/
theorem State.drainSucceeds_bufferMove (e : EntryIx) : BufferMove s.buffer (s.drainSucceeds e).buffer := by
  unfold State.drainSucceeds
  dsimp only
  split
  · exact .keeps
  · next L hL =>
    split
    · next hs =>
      unfold State.commitSuccessor
      split
      · next f hf =>
        split
        · obtain ⟨hfe, hkeep⟩ := CombineBuffer.openEntry_of_set (b := s.buffer) rfl (by decide) hf
          obtain ⟨ho, hfL⟩ := CombineBuffer.openEntry_spec hf
          rw [hkeep] at ho hfL
          have hmove := BufferMove.succeeds e f L hs hL hfe ho hfL
          rw [← hkeep] at hmove
          exact hmove
        · exact .frees e
      · exact .frees e
    · exact .keeps

/-- A drain that fails makes its entry HELD, and folds the OPEN entry of the line into it (R96, R98). -/
theorem State.drainFails_bufferMove (e : EntryIx) (r : HeldReason) (op : OpKind × BitVec 16) (w : Option WordIx) :
    BufferMove s.buffer (s.drainFails e r op w).buffer := by
  unfold State.drainFails
  dsimp only
  split
  · exact .keeps
  · next L hL =>
    split
    · next hs =>
      unfold State.fold
      dsimp only
      split
      · next hf => exact .holds e L r hs hL fun j => CombineBuffer.openEntry_none_of_set (b := s.buffer) rfl hf
      · next f hf =>
        obtain ⟨hfe, hkeep⟩ := CombineBuffer.openEntry_of_set (b := s.buffer) rfl (by simp) hf
        obtain ⟨ho, hfL⟩ := CombineBuffer.openEntry_spec hf
        rw [hkeep] at ho hfL
        have hmove := BufferMove.folds e f L r hs hL hfe ho hfL
        have hself : (s.buffer.put e (s.buffer.entries[e].hold r)).entries[e] = s.buffer.entries[e].hold r :=
          (s.buffer.put_entry e e _).trans (if_pos rfl)
        rw [← CombineBuffer.put_put_retire hfe (s.buffer.entries[e].hold r), ← hkeep] at hmove
        exact hself ▸ hmove
    · exact .keeps

theorem State.completeDrain_bufferMove (k : LaneIx) (o : Operation) (e : EntryIx) (r : Option HeldReason)
    (w : Option WordIx) : BufferMove s.buffer (s.completeDrain k o e r w).buffer := by
  cases r with
  | none => exact (s.removeLaneOp k).drainSucceeds_bufferMove e
  | some r => exact (s.removeLaneOp k).drainFails_bufferMove e r o.label w

theorem State.discard_bufferMove (e : EntryIx) : BufferMove s.buffer (s.discard e).buffer := by
  unfold State.discard
  split
  · exact .keeps
  · exact .frees e

theorem State.recommit_bufferMove (e : EntryIx) (k : DrainKind) (h : s.buffer.entries[e].state = .held) :
    BufferMove s.buffer (s.recommit e k).buffer := by
  unfold State.recommit
  dsimp only
  split
  · exact .keeps
  · exact .recommits e h

end Buffers

theorem BufferMove.of_eq {b b' : CombineBuffer} (h : b' = b) : BufferMove b b' := h ▸ .keeps

/-- Every change makes one of the moves. -/
theorem Change.bufferMove {s t : State} (h : Change s t) : BufferMove s.buffer t.buffer := by
  cases h with
  | stores e L p bytes m _ hb hp he => exact .stores e p bytes m hb hp (CombineBuffer.state_ne_free_of_open_or_held he)
  | allocates e L p bytes m _ hb hp ho hh hf =>
    exact .opens e L p bytes m hb hp ho hh (CombineBuffer.lowestFree_spec hf)
  | commits e L ho hL hp => exact .commits e L ho hL hp
  | pends e ho => exact .pends e ho
  | ages e ho _ => exact .ages e ho
  | discards e _ => exact s.discard_bufferMove e
  | recommits e k hh _ => rw [State.backToQuiescing_buffer]; exact s.recommit_bufferMove e k hh
  | dispatches k i _ => exact s.takeOp_bufferMove k i
  | endsDrain k o d e r w _ _ => exact s.completeDrain_bufferMove k o e r w
  | clears _ | powersOn => exact .empties _ rfl rfl
  | ticks => exact .ticks
  | setsBuffer a c => exact .limits a c
  | takesRead r q _ _ => exact .of_eq ((s.setRead r _).attachFill_buffer r q.line)
  | placesRead i _ => exact .of_eq (s.placeRead_buffer i)
  | placesBit i _ => exact .of_eq (s.placeBit_buffer i)
  | issues _ => exact .of_eq s.issue_buffer
  | goesOn k o L bytes f _ => exact .of_eq (s.goOn_buffer k L bytes f)
  | endsFill k o readers g f _ _ =>
    exact .of_eq ((State.logFault?_buffer _ f).trans (State.answerReaders_buffer _ readers g))
  | endsBitOp k o i st d f _ _ => exact .of_eq (s.completeBitOp_buffer k i st d f)
  | endsScrub k o f _ _ => exact .of_eq (s.completeScrub_buffer k f)
  | appendsScrub _ _ => exact .of_eq (State.advanceScrub_buffer _)
  | starts _ => refine .of_eq ?_; split <;> rfl
  | _ => exact .keeps

/-- A law of the buffer that every move keeps, every step keeps. -/
theorem step_keeps_buffer {P : CombineBuffer → Prop} (hm : ∀ b b', BufferMove b b' → P b → P b') {s t : State}
    (h : step s = .next t) (p : P s.buffer) : P t.buffer :=
  step_keeps (P := fun u => P u.buffer) (fun _ _ hc => hm _ _ hc.bufferMove) (fun _ _ hu => hu) h p

end Sys2Proof.Machine

/-! ## Every step keeps the laws of the combine buffer (R16-R18, R20, R137, R144) -/

namespace Sys2Proof.Machine

/-! ### R18: one OPEN entry and one predecessor for each line -/

/-- Two different entries may stand side by side (R18). -/
def Entry.besides (x y : Entry) : Prop :=
  x.line = y.line →
    ¬(x.state = .opened ∧ y.state = .opened) ∧ ¬(x.state.isPredecessor = true ∧ y.state.isPredecessor = true) ∧
    ¬(x.state = .opened ∧ y.state = .held) ∧ ¬(x.state = .held ∧ y.state = .opened)

theorem Entry.besides.symm {x y : Entry} (h : x.besides y) : y.besides x := by
  intro hl
  obtain ⟨hopen, hpred, hoh, hho⟩ := h hl.symm
  exact ⟨hopen ∘ And.symm, hpred ∘ And.symm, hho ∘ And.symm, hoh ∘ And.symm⟩

theorem CombineBuffer.lineLaw_iff {b : CombineBuffer} :
    b.lineLaw ↔ ∀ i j : EntryIx, i ≠ j → b.entries[i].besides b.entries[j] := by
  constructor
  · intro h i j hij hl
    obtain ⟨hopen, hpred, hheld⟩ := h i j hl
    obtain ⟨-, -, hheld'⟩ := h j i hl.symm
    exact ⟨fun ho => hij (hopen ho.1 ho.2), fun hp => hij (hpred hp.1 hp.2), fun hh => hheld hh.1 hh.2,
      fun hh => hheld' hh.2 hh.1⟩
  · intro h i j hl
    by_cases hij : i = j
    · subst hij
      exact ⟨fun _ _ => rfl, fun _ _ => rfl, fun ho => by rw [ho]; decide⟩
    · obtain ⟨hopen, hpred, hheld, -⟩ := h i j hij hl
      exact ⟨fun hi hj => absurd ⟨hi, hj⟩ hopen, fun hi hj => absurd ⟨hi, hj⟩ hpred, fun hi hj => hheld ⟨hi, hj⟩⟩

/-- An entry replaced by one that goes with every other entry. -/
theorem CombineBuffer.lineLaw_of_set {b b' : CombineBuffer} {e : EntryIx} {x : Entry}
    (hb : b'.entries = b.entries.set e x) (hx : ∀ j, j ≠ e → x.besides b.entries[j]) (h : b.lineLaw) : b'.lineLaw := by
  rw [CombineBuffer.lineLaw_iff] at h ⊢
  intro i j hij
  simp only [hb, getElem_set_fin]
  split
  · next hi => rw [if_neg (hi ▸ hij)]; exact hx j (hi ▸ hij.symm)
  · next hi =>
    split
    · exact (hx i (Ne.symm hi)).symm
    · exact h i j hij

/-- A FREE entry goes with every entry. -/
theorem Entry.free_besides (y : Entry) : Entry.free.besides y := by
  intro _
  simp [Entry.free, EntryState.isPredecessor]

/-- An entry of the same line whose new state asks no more than its old one goes with what the old one went with. -/
theorem Entry.besides.weaken {x x' y : Entry} (h : x.besides y) (hline : x'.line = x.line)
    (hopen : x'.state = .opened → x.state = .opened)
    (hpred : x'.state.isPredecessor = true → x.state.isPredecessor = true)
    (hheld : x'.state = .held → x.state = .held) : x'.besides y := by
  intro hl
  obtain ⟨h1, h2, h3, h4⟩ := h (hline ▸ hl)
  exact ⟨fun g => h1 ⟨hopen g.1, g.2⟩, fun g => h2 ⟨hpred g.1, g.2⟩, fun g => h3 ⟨hopen g.1, g.2⟩,
    fun g => h4 ⟨hheld g.1, g.2⟩⟩

/-- A COMMITTED entry goes with every entry of its line that is no predecessor. -/
theorem Entry.besides_of_committed {x y : Entry} (hx : x.state = .committed)
    (hy : x.line = y.line → y.state.isPredecessor = false) : x.besides y := by
  intro hl
  simp [hx, hy hl]

theorem CombineBuffer.lineLaw.besides {b : CombineBuffer} (h : b.lineLaw) {e j : EntryIx} (hj : j ≠ e) :
    b.entries[e].besides b.entries[j] := CombineBuffer.lineLaw_iff.mp h e j hj.symm

/-- Only entry `e` is changed, on its line, and its new state asks no more than its old one. -/
theorem CombineBuffer.lineLaw_put {b : CombineBuffer} {e : EntryIx} {x : Entry} (hline : x.line = b.entries[e].line)
    (hopen : x.state = .opened → b.entries[e].state = .opened)
    (hpred : x.state.isPredecessor = true → b.entries[e].state.isPredecessor = true)
    (hheld : x.state = .held → b.entries[e].state = .held) (h : b.lineLaw) : (b.put e x).lineLaw :=
  CombineBuffer.lineLaw_of_set rfl (fun _ hj => (h.besides hj).weaken hline hopen hpred hheld) h

theorem CombineBuffer.lineLaw_free {b : CombineBuffer} (e : EntryIx) (h : b.lineLaw) :
    (b.retire e Entry.free).lineLaw :=
  CombineBuffer.lineLaw_of_set rfl (fun _ _ => Entry.free_besides _) h

/-- An entry of a line without another predecessor commits. -/
theorem CombineBuffer.lineLaw_commit {b : CombineBuffer} {e : EntryIx}
    (hp : ∀ j, j ≠ e → b.entries[e].line = b.entries[j].line → b.entries[j].state.isPredecessor = false)
    (h : b.lineLaw) : (b.retire e b.entries[e].commit).lineLaw :=
  CombineBuffer.lineLaw_of_set rfl (fun j hj => Entry.besides_of_committed rfl (hp j hj)) h

/-- The other entries of a DRAINING entry's line are no predecessors. -/
theorem CombineBuffer.lineLaw.not_predecessor {b : CombineBuffer} (h : b.lineLaw) {e j : EntryIx}
    (hs : b.entries[e].state = .draining) (hj : j ≠ e) (hl : b.entries[e].line = b.entries[j].line) :
    b.entries[j].state.isPredecessor = false := by
  obtain ⟨-, hpred, -⟩ := h.besides hj hl
  rw [hs] at hpred
  simpa [EntryState.isPredecessor] using hpred

/-- A HELD entry goes with every entry of its line that is neither a predecessor nor OPEN. -/
theorem Entry.besides_of_held {x y : Entry} (hx : x.state = .held)
    (hpred : x.line = y.line → y.state.isPredecessor = false) (hopen : x.line = y.line → y.state ≠ .opened) :
    x.besides y := by
  intro hl
  simp [hx, hpred hl, hopen hl]

/-- Every move keeps R18. A commit finds no predecessor left on the line, and a fold no OPEN entry. -/
theorem BufferMove.lineLaw {b b' : CombineBuffer} (hm : BufferMove b b') (h : b.lineLaw) : b'.lineLaw := by
  cases hm with
  | keeps => exact h
  | limits a c => exact h
  | empties b' he _ => exact CombineBuffer.lineLaw_iff.mpr fun i j _ => by simpa [he] using Entry.free_besides _
  | ticks =>
    rw [CombineBuffer.lineLaw_iff] at h ⊢
    intro i j hij
    simpa [Entry.besides, Entry.tick] using h i j hij
  | stores e p bytes m _ _ _ => exact CombineBuffer.lineLaw_put rfl id id id h
  | opens e L p bytes m _ _ ho hh hf =>
    refine CombineBuffer.lineLaw_of_set rfl (fun j _ hl => ?_) h
    have hopen := CombineBuffer.not_open_of_none ho hl.symm
    have hheld := CombineBuffer.not_held_of_none hh hl.symm
    exact ⟨fun g => hopen g.2, fun g => Bool.false_ne_true g.1, fun g => hheld g.2, fun g => hopen g.2⟩
  | pends e _ | ages e _ => exact CombineBuffer.lineLaw_put rfl id id id h
  | commits e L _ hL hp =>
    refine CombineBuffer.lineLaw_commit (fun j _ hl => ?_) h
    exact Bool.eq_false_iff.mpr fun g => CombineBuffer.entryOf_none hp j g (hl.symm.trans hL)
  | starts e hs => exact CombineBuffer.lineLaw_put rfl nofun (fun _ => by rw [hs]; rfl) nofun h
  | frees e => exact CombineBuffer.lineLaw_free e h
  | succeeds e f L hs hL hfe _ hfL =>
    have hkeep : (b.retire e Entry.free).entries[f] = b.entries[f] := (b.retire_entry e f _).trans (if_neg hfe.symm)
    rw [← hkeep] at hfL ⊢
    refine CombineBuffer.lineLaw_commit (fun j _ hl => ?_) (CombineBuffer.lineLaw_free e h)
    rw [hfL, CombineBuffer.retire_entry] at hl
    rw [CombineBuffer.retire_entry]
    split at hl
    · next hj => rw [if_pos hj]; rfl
    · next hj => rw [if_neg hj]; exact h.not_predecessor hs (Ne.symm hj) (hL.trans hl)
  | holds e L r hs hL hn =>
    refine CombineBuffer.lineLaw_of_set rfl (fun j hj => Entry.besides_of_held rfl
      (h.not_predecessor hs hj) fun hl => hn j hj (hl.symm.trans hL)) h
  | folds e f L r hs hL hfe ho hfL =>
    refine CombineBuffer.lineLaw_of_set rfl (fun j hj => ?_) (CombineBuffer.lineLaw_free f h)
    rw [CombineBuffer.retire_entry]
    split
    · exact (Entry.free_besides _).symm
    · next hjf =>
      refine Entry.besides_of_held rfl (h.not_predecessor hs hj) fun hl hjo => hjf ?_
      obtain ⟨hone, -⟩ := h f j (hfL.trans (hL.symm.trans hl))
      exact hone ho hjo
  | recommits e hh => exact CombineBuffer.lineLaw_put rfl nofun (fun _ => by rw [hh]; rfl) nofun h

/-- Settles O6: each move of the buffer keeps R18's law, so every step does. -/
theorem oneOpenAndOnePredecessorPerLine : Obligations.OneOpenAndOnePredecessorPerLine :=
  fun _ _ h hs => step_keeps_buffer (fun _ _ hm => hm.lineLaw) hs h

end Sys2Proof.Machine

namespace Sys2Proof.Machine

/-! ### R20: the open order list -/

section OpenOrder
variable {b : CombineBuffer} {e : EntryIx} {x : Entry}

/-- A replaced entry that is OPEN exactly when it was keeps the list right. -/
theorem CombineBuffer.openOrderLaw_put (hx : x.state = .opened ↔ b.entries[e].state = .opened) (h : b.openOrderLaw) :
    (b.put e x).openOrderLaw := by
  refine ⟨h.1, fun i => ?_⟩
  rw [CombineBuffer.put_entry]
  split
  · next hi => subst hi; exact (h.2 e).trans hx.symm
  · exact h.2 i

/-- An entry that leaves OPEN leaves the list. -/
theorem CombineBuffer.openOrderLaw_retire (hx : x.state ≠ .opened) (h : b.openOrderLaw) :
    (b.retire e x).openOrderLaw := by
  refine ⟨h.1.filter _, fun i => ?_⟩
  rw [CombineBuffer.retire_entry]
  simp only [CombineBuffer.retire, List.mem_filter, bne_iff_ne, h.2 i]
  split
  · next hi => subst hi; simp [hx]
  · next hi => simp [Ne.symm hi]

/-- An entry that was not OPEN and is opened joins the list. -/
theorem CombineBuffer.openOrderLaw_enlist (hx : x.state = .opened) (he : b.entries[e].state ≠ .opened)
    (h : b.openOrderLaw) : (b.enlist e x).openOrderLaw := by
  have hnot : e ∉ b.openOrder := fun hm => he ((h.2 e).mp hm)
  refine ⟨List.nodup_append'.mpr ⟨h.1, List.nodup_singleton e, by simpa using hnot⟩, fun i => ?_⟩
  rw [CombineBuffer.enlist_entry]
  simp only [CombineBuffer.enlist, List.mem_append, List.mem_singleton, h.2 i]
  split
  · next hi => subst hi; simp [hx]
  · next hi => simp [Ne.symm hi]

end OpenOrder

theorem BufferMove.openOrderLaw {b b' : CombineBuffer} (hm : BufferMove b b') (h : b.openOrderLaw) :
    b'.openOrderLaw := by
  cases hm with
  | keeps => exact h
  | limits a c => exact h
  | empties b' he ho => exact ⟨by simp [ho], fun i => by simp [ho, he, Entry.free]⟩
  | ticks => exact ⟨h.1, fun i => by simpa [Entry.tick] using h.2 i⟩
  | stores e p bytes m _ _ _ => exact CombineBuffer.openOrderLaw_put Iff.rfl h
  | opens e L p bytes m _ _ _ _ hf => exact CombineBuffer.openOrderLaw_enlist rfl (by rw [hf]; decide) h
  | pends e _ | ages e _ => exact CombineBuffer.openOrderLaw_put Iff.rfl h
  | commits e L _ _ _ => exact CombineBuffer.openOrderLaw_retire nofun h
  | starts e hs => exact CombineBuffer.openOrderLaw_put (iff_of_false nofun (by rw [hs]; decide)) h
  | frees e => exact CombineBuffer.openOrderLaw_retire nofun h
  | succeeds e f L _ _ _ _ _ =>
    exact CombineBuffer.openOrderLaw_retire nofun (CombineBuffer.openOrderLaw_retire nofun h)
  | holds e L r hs _ _ => exact CombineBuffer.openOrderLaw_put (iff_of_false nofun (by rw [hs]; decide)) h
  | folds e f L r hs _ hfe _ _ =>
    refine CombineBuffer.openOrderLaw_put (iff_of_false nofun ?_) (CombineBuffer.openOrderLaw_retire nofun h)
    rw [CombineBuffer.retire_entry, if_neg hfe, hs]
    decide
  | recommits e hh => exact CombineBuffer.openOrderLaw_put (iff_of_false nofun (by rw [hh]; decide)) h

/-- Settles O7: each move of the buffer keeps R20's law, so every step does. -/
theorem openOrderListsTheOpenEntries : Obligations.OpenOrderListsTheOpenEntries :=
  fun _ _ h hs => step_keeps_buffer (fun _ _ hm => hm.openOrderLaw) hs h

/-! ### R16, R17: an entry's fields follow its state -/

/-- The fields of one entry are present as its state says (R16, R17). -/
def Entry.law (x : Entry) : Prop :=
  (x.line = none ↔ x.state = .free) ∧ (x.valid = 0 ↔ x.state = .free) ∧
    (x.heldReason.isSome = true ↔ x.state = .held) ∧ (x.ageTimer.isSome = true → x.state = .opened)

theorem CombineBuffer.entryLaw_iff {b : CombineBuffer} : b.entryLaw ↔ ∀ i : EntryIx, b.entries[i].law := Iff.rfl

theorem Entry.law_free : Entry.free.law := by
  simp [Entry.law, Entry.free]

/-- A span of at least one position within the line is not empty. -/
theorem or_spanSet_ne_zero (v : PosSet) {p n : Nat} (hn : 1 ≤ n) (hp : p < 32) : v ||| spanSet p n ≠ 0 := by
  intro h
  have hbit : (v ||| spanSet p n).getLsbD p = (0 : PosSet).getLsbD p := by rw [h]
  have hin : p < p + n := by omega
  simp [getLsbD_spanSet p n p hp, hin] at hbit

theorem or_ne_zero {u v : PosSet} (h : u ≠ 0) : u ||| v ≠ 0 := fun h0 => h (BitVec.or_eq_zero_iff.mp h0).1

/-- Storing bytes keeps an entry's law, and gives it to an entry just opened. -/
theorem Entry.law_store {x : Entry} {p : Nat} {bytes : List Byte} {m : MasterIx} (hb : 1 ≤ bytes.length) (hp : p < 32)
    (hline : x.line ≠ none) (hs : x.state ≠ .free) (hheld : x.heldReason.isSome = true ↔ x.state = .held)
    (htimer : x.ageTimer.isSome = true → x.state = .opened) : (x.store p bytes m).law :=
  ⟨iff_of_false hline hs, iff_of_false (or_spanSet_ne_zero x.valid hb hp) hs, hheld, htimer⟩

theorem Entry.law.store {x : Entry} (h : x.law) {p : Nat} {bytes : List Byte} (m : MasterIx) (hb : 1 ≤ bytes.length)
    (hp : p < 32) (hs : x.state ≠ .free) : (x.store p bytes m).law := by
  obtain ⟨hline, -, hheld, htimer⟩ := h
  exact Entry.law_store hb hp (mt hline.mp hs) hs hheld htimer

/-- An entry of another state that is not FREE keeps its line and its bytes. -/
theorem Entry.law.move {x x' : Entry} (h : x.law) (hs : x.state ≠ .free) (hs' : x'.state ≠ .free)
    (hline : x'.line = x.line) (hvalid : x'.valid = x.valid) (hheld : x'.heldReason.isSome = true ↔ x'.state = .held)
    (htimer : x'.ageTimer.isSome = true → x'.state = .opened) : x'.law := by
  obtain ⟨hl, hv, -, -⟩ := h
  refine ⟨iff_of_false ?_ hs', iff_of_false ?_ hs', hheld, htimer⟩
  · rw [hline]; exact mt hl.mp hs
  · rw [hvalid]; exact mt hv.mp hs

/-- An entry that is not HELD has no held reason. -/
theorem Entry.law.heldReason_none {x : Entry} (h : x.law) (hs : x.state ≠ .held) : x.heldReason = none := by
  obtain ⟨-, -, hheld, -⟩ := h
  simpa using mt hheld.mp hs

theorem Entry.law.ageTimer_none {x : Entry} (h : x.law) (hs : x.state ≠ .opened) : x.ageTimer = none := by
  obtain ⟨-, -, -, htimer⟩ := h
  simpa using mt htimer hs

theorem Entry.law.commit {x : Entry} (h : x.law) (hs : x.state = .opened) : x.commit.law :=
  h.move (by rw [hs]; decide) nofun rfl rfl
    (by simp [Entry.commit, h.heldReason_none (by rw [hs]; decide)]) nofun

theorem Entry.law.start {x : Entry} (h : x.law) (hs : x.state = .committed) : x.start.law :=
  h.move (by rw [hs]; decide) nofun rfl rfl (by simp [Entry.start, h.heldReason_none (by rw [hs]; decide)])
    (by simp [Entry.start, h.ageTimer_none (by rw [hs]; decide)])

theorem Entry.law.recommit {x : Entry} (h : x.law) (hs : x.state = .held) : x.recommit.law :=
  h.move (by rw [hs]; decide) nofun rfl rfl (by simp [Entry.recommit])
    (by simp [Entry.recommit, h.ageTimer_none (by rw [hs]; decide)])

theorem Entry.law.hold {x : Entry} (h : x.law) (hs : x.state = .draining) (r : HeldReason) : (x.hold r).law :=
  h.move (by rw [hs]; decide) nofun rfl rfl (by simp [Entry.hold]) nofun

theorem Entry.law.absorbing {x : Entry} (h : x.law) (y : Entry) (hs : x.state ≠ .free) : (y.absorbing x).law := by
  obtain ⟨hline, hvalid, hheld, htimer⟩ := h
  exact ⟨hline, iff_of_false (or_ne_zero (mt hvalid.mp hs)) hs, hheld, htimer⟩

theorem Entry.law.tick {x : Entry} (h : x.law) : x.tick.law := by
  simpa [Entry.law, Entry.tick, tickTimer] using h

/-- An entry replaced by one that keeps the law. -/
theorem CombineBuffer.entryLaw_of_set {b b' : CombineBuffer} {e : EntryIx} {x : Entry}
    (hb : b'.entries = b.entries.set e x) (hx : x.law) (h : b.entryLaw) : b'.entryLaw := by
  rw [CombineBuffer.entryLaw_iff] at h ⊢
  intro i
  rw [hb, getElem_set_fin]
  split
  · exact hx
  · exact h i

theorem BufferMove.entryLaw {b b' : CombineBuffer} (hm : BufferMove b b') (h : b.entryLaw) : b'.entryLaw := by
  have hlaw := CombineBuffer.entryLaw_iff.mp h
  cases hm with
  | keeps => exact h
  | limits a c => exact h
  | empties b' he _ => exact CombineBuffer.entryLaw_iff.mpr fun i => by simpa [he] using Entry.law_free
  | ticks => exact CombineBuffer.entryLaw_iff.mpr fun i => by simpa using (hlaw i).tick
  | stores e p bytes m hb hp hs => exact CombineBuffer.entryLaw_of_set rfl ((hlaw e).store m hb hp hs) h
  | opens e L p bytes m hb hp _ _ _ =>
    exact CombineBuffer.entryLaw_of_set rfl (Entry.law_store hb hp nofun nofun (by simp [Entry.opening, Entry.free])
      fun _ => rfl) h
  | pends e ho => exact CombineBuffer.entryLaw_of_set rfl (hlaw e) h
  | ages e ho =>
    obtain ⟨hline, hvalid, hheld, -⟩ := hlaw e
    exact CombineBuffer.entryLaw_of_set rfl ⟨hline, hvalid, hheld, fun _ => ho⟩ h
  | commits e L ho _ _ => exact CombineBuffer.entryLaw_of_set rfl ((hlaw e).commit ho) h
  | starts e hs => exact CombineBuffer.entryLaw_of_set rfl ((hlaw e).start hs) h
  | frees e => exact CombineBuffer.entryLaw_of_set rfl Entry.law_free h
  | succeeds e f L _ _ _ ho _ =>
    exact CombineBuffer.entryLaw_of_set rfl ((hlaw f).commit ho)
      (CombineBuffer.entryLaw_of_set (b' := b.retire e Entry.free) rfl Entry.law_free h)
  | holds e L r hs _ _ => exact CombineBuffer.entryLaw_of_set rfl ((hlaw e).hold hs r) h
  | folds e f L r hs _ _ _ _ =>
    exact CombineBuffer.entryLaw_of_set rfl (((hlaw e).hold hs r).absorbing _ nofun)
      (CombineBuffer.entryLaw_of_set (b' := b.retire f Entry.free) rfl Entry.law_free h)
  | recommits e hh => exact CombineBuffer.entryLaw_of_set rfl ((hlaw e).recommit hh) h

/-! ### R137, R144: the bounds of the queues -/

/-- The intake and the response queue. -/
def State.queues (s : State) : List Request × List Response := (s.upstream.intake, s.upstream.responses)

theorem State.queueLaw_of_queues {s t : State} (h : t.queues = s.queues) (hs : s.upstream.queueLaw) :
    t.upstream.queueLaw := by
  obtain ⟨hintake, hresponses⟩ := Prod.mk.inj h
  unfold Upstream.queueLaw at hs ⊢
  rwa [hintake, hresponses]

section Queues
variable (s : State)

theorem State.logFault?_queues (f : Option FaultRecord) : (s.logFault? f).queues = s.queues := by
  cases f <;> rfl

theorem State.attachFill_queues (r : ReadIx) (L : Nat) : (s.attachFill r L).queues = s.queues := by
  unfold State.attachFill
  split
  · split <;> rfl
  · rfl

theorem State.issue_queues : s.issue.queues = s.queues := by
  unfold State.issue
  split <;> rfl

theorem State.goOn_queues (k : LaneIx) (L : Nat) (bytes : LineBytes) (f : Option FaultRecord) :
    (s.goOn k L bytes f).queues = s.queues := by
  unfold State.goOn
  split
  · rfl
  · exact s.logFault?_queues f

theorem State.answerReaders_queues (readers : List ReadIx) (f : ReadReq → RecordStatus × List Byte) :
    (s.answerReaders readers f).queues = s.queues := by
  unfold State.answerReaders
  dsimp only
  split <;> rfl

theorem State.completeBitOp_queues (k : LaneIx) (i : BitIx) (st : RecordStatus) (d : List Byte)
    (f : Option FaultRecord) : (s.completeBitOp k i st d f).queues = s.queues := by
  unfold State.completeBitOp
  dsimp only
  refine (State.logFault?_queues _ f).trans ?_
  split <;> rfl

theorem State.completeScrub_queues (k : LaneIx) (f : Option FaultRecord) : (s.completeScrub k f).queues = s.queues :=
  (s.removeLaneOp k).logFault?_queues f

theorem State.advanceScrub_queues : s.advanceScrub.queues = s.queues := by
  unfold State.advanceScrub
  split <;> rfl

theorem State.backToQuiescing_queues : s.backToQuiescing.queues = s.queues := by
  unfold State.backToQuiescing
  split <;> rfl

theorem State.startWork_queues (w : Work) : (s.startWork w).queues = s.queues := by
  cases w with
  | drain d e =>
    simp only [State.startWork, State.startDrain]
    split
    · split <;> rfl
    · rfl
  | bitop i =>
    simp only [State.startWork, State.startBitOp]
    split <;> rfl
  | fill readers => rfl
  | scrub => rfl

theorem State.takeOp_queues (k : LaneIx) (i : Nat) : (s.takeOp k i).queues = s.queues := by
  unfold State.takeOp
  split
  · rfl
  · next o _ => exact State.startWork_queues { s with opList := s.opList.take i k } o.work

theorem State.commitSuccessor_queues (L : Nat) : (s.commitSuccessor L).queues = s.queues := by
  unfold State.commitSuccessor
  split
  · split <;> rfl
  · rfl

theorem State.drainSucceeds_queues (e : EntryIx) : (s.drainSucceeds e).queues = s.queues := by
  unfold State.drainSucceeds
  dsimp only
  split
  · rfl
  · split
    · exact State.commitSuccessor_queues _ _
    · rfl

theorem State.fold_queues (e : EntryIx) (L : Nat) : (s.fold e L).queues = s.queues := by
  unfold State.fold
  split <;> rfl

/-- What a failed drain reports leaves the queues alone (R96, R97). -/
theorem State.reportHeld_queues (e : EntryIx) (r : FaultRecord) :
    (((s.leaveWaitSets e).logFault r).raise .lineHeld).queues = s.queues := rfl

theorem State.drainFails_queues (e : EntryIx) (r : HeldReason) (op : OpKind × BitVec 16) (w : Option WordIx) :
    (s.drainFails e r op w).queues = s.queues := by
  unfold State.drainFails
  dsimp only
  split
  · rfl
  · split
    · rw [State.reportHeld_queues, State.fold_queues]
      rfl
    · rfl

theorem State.completeDrain_queues (k : LaneIx) (o : Operation) (e : EntryIx) (r : Option HeldReason)
    (w : Option WordIx) : (s.completeDrain k o e r w).queues = s.queues := by
  cases r with
  | none => exact (s.removeLaneOp k).drainSucceeds_queues e
  | some r => exact (s.removeLaneOp k).drainFails_queues e r o.label w

theorem State.discard_queues (e : EntryIx) : (s.discard e).queues = s.queues := by
  unfold State.discard
  split <;> rfl

theorem State.recommit_queues (e : EntryIx) (k : DrainKind) : (s.recommit e k).queues = s.queues := by
  unfold State.recommit
  dsimp only
  split <;> rfl

end Queues

/-- A response that takes an available slot keeps the bound. -/
theorem State.queueLaw_place {s : State} (r : Response) (hs : s.slotAvailable = true) (h : s.upstream.queueLaw) :
    (s.placeResponse r).upstream.queueLaw := by
  obtain ⟨hintake, -⟩ := h
  have hroom : s.upstream.responses.length < Config.responseDepth := of_decide_eq_true hs
  exact ⟨hintake, by simpa using hroom⟩

theorem State.queueLaw_placeRead {s : State} (i : ReadIx) (hs : s.slotAvailable = true) (h : s.upstream.queueLaw) :
    (s.placeRead i).upstream.queueLaw := by
  unfold State.placeRead
  split
  · exact State.queueLaw_place _ hs h
  · exact h

theorem State.queueLaw_placeBit {s : State} (i : BitIx) (hs : s.slotAvailable = true) (h : s.upstream.queueLaw) :
    (s.placeBit i).upstream.queueLaw := by
  unfold State.placeBit
  split
  · exact State.queueLaw_place _ hs h
  · exact h

/-- An accepted request finds room in the intake. -/
theorem State.intake_append_le {s : State} (r : Request) (hs : s.accepts = true) :
    (s.upstream.intake ++ [r]).length ≤ Config.intakeDepth := by
  unfold State.accepts at hs
  simp only [Bool.and_eq_true, decide_eq_true_eq] at hs
  obtain ⟨⟨hroom, -⟩, -⟩ := hs
  simpa using hroom

/-- Every change keeps the bounds of the queues: only an accepted request and a response with a slot make
them longer. -/
theorem Change.queueLaw {s t : State} (h : Change s t) (hq : s.upstream.queueLaw) : t.upstream.queueLaw := by
  obtain ⟨hintake, hresponses⟩ := id hq
  cases h with
  | headLeaves => exact ⟨(List.tail_sublist _).length_le.trans hintake, hresponses⟩
  | delivers => exact ⟨hintake, (List.tail_sublist _).length_le.trans hresponses⟩
  | arrives r ha => exact ⟨State.intake_append_le r ha, hresponses⟩
  | places r hs | answersBarrier m t hs => exact State.queueLaw_place _ hs hq
  | placesRead i hs => exact State.queueLaw_placeRead i hs hq
  | placesBit i hs => exact State.queueLaw_placeBit i hs hq
  | clears _ | resetsBus | powersOn => exact ⟨Nat.zero_le _, Nat.zero_le _⟩
  | takesRead r q _ _ => exact State.queueLaw_of_queues ((s.setRead r _).attachFill_queues r q.line) hq
  | discards e _ => exact State.queueLaw_of_queues (s.discard_queues e) hq
  | recommits e k _ _ =>
    exact State.queueLaw_of_queues ((State.backToQuiescing_queues _).trans (s.recommit_queues e k)) hq
  | dispatches k i _ => exact State.queueLaw_of_queues (s.takeOp_queues k i) hq
  | issues _ => exact State.queueLaw_of_queues s.issue_queues hq
  | goesOn k o L bytes f _ => exact State.queueLaw_of_queues (s.goOn_queues k L bytes f) hq
  | endsDrain k o d e r w _ _ => exact State.queueLaw_of_queues (s.completeDrain_queues k o e r w) hq
  | endsFill k o readers g f _ _ =>
    exact State.queueLaw_of_queues
      ((State.logFault?_queues _ f).trans (State.answerReaders_queues (s.removeLaneOp k) readers g)) hq
  | endsBitOp k o i st d f _ _ => exact State.queueLaw_of_queues (s.completeBitOp_queues k i st d f) hq
  | endsScrub k o f _ _ => exact State.queueLaw_of_queues (s.completeScrub_queues k f) hq
  | appendsScrub _ _ => exact State.queueLaw_of_queues (State.advanceScrub_queues (s.appendOp _ _)) hq
  | starts _ => split <;> exact hq
  | ticks => rwa [State.runTimers_upstream]
  | _ => exact hq

/-- Settles O8: each move of the buffer keeps R16's and R17's law, and each change the bounds of the queues. -/
theorem entryFieldsFollowTheState : Obligations.EntryFieldsFollowTheState :=
  fun _ _ h hs => step_keeps (P := fun u => u.buffer.entryLaw ∧ u.upstream.queueLaw)
    (fun _ _ hc hu => ⟨hc.bufferMove.entryLaw hu.1, hc.queueLaw hu.2⟩) (fun _ _ hu => hu) hs h

end Sys2Proof.Machine

/-! ## Writes, close requests and the overlay (R12, R20-R30, R35, R38, R99) -/

namespace Sys2Proof.Machine

/-! ### Close requests (R28-R30, R35) -/

section CloseRequest
variable {s : State} {e : EntryIx} {L : Nat}

/-- A close request of an entry that is not OPEN, or is close-pending, has no effect (R29). -/
theorem State.closeRequest_of_not
    (h : ¬(s.buffer.entries[e].state = .opened ∧ s.buffer.entries[e].closePending = false)) :
    s.closeRequest e = s := by
  unfold State.closeRequest
  dsimp only
  split
  · rfl
  · exact if_neg h

/-- A close request behind a predecessor makes the entry close-pending (R29). -/
theorem State.closeRequest_pends (hl : s.buffer.entries[e].line = some L) (ho : s.buffer.entries[e].state = .opened)
    (hc : s.buffer.entries[e].closePending = false) (hp : s.buffer.predecessor L ≠ none) :
    s.closeRequest e = s.setEntry e { s.buffer.entries[e] with closePending := true } := by
  obtain ⟨p, hp⟩ := Option.ne_none_iff_exists'.mp hp
  simp only [State.closeRequest, hl, ho, hc, hp, and_self, if_true]

/-- A close request without a predecessor commits the entry (R29, R30). -/
theorem State.closeRequest_commits (hl : s.buffer.entries[e].line = some L) (ho : s.buffer.entries[e].state = .opened)
    (hc : s.buffer.entries[e].closePending = false) (hp : s.buffer.predecessor L = none) :
    s.closeRequest e = s.commit e L := by
  simp only [State.closeRequest, hl, ho, hc, hp, and_self, if_true]

/-- A second close request of the same entry has no effect (R29). -/
theorem State.closeRequest_closeRequest (s : State) (e : EntryIx) :
    (s.closeRequest e).closeRequest e = s.closeRequest e := by
  rcases s.closeRequest_cases e with h | ⟨L, -, -, -, ⟨-, h⟩ | ⟨p, -, h⟩⟩
  · rw [h, h]
  · rw [h]
    refine State.closeRequest_of_not fun hc => ?_
    rw [State.commit_buffer, CombineBuffer.retire_entry, if_pos rfl] at hc
    exact EntryState.noConfusion hc.1
  · rw [h]
    refine State.closeRequest_of_not fun hc => ?_
    simp only [State.setEntry_buffer, getElem_set_fin, if_true] at hc
    exact absurd hc.2 (by decide)

/-- A close request changes no limit. -/
theorem State.closeRequest_closeAhead (s : State) (e : EntryIx) :
    (s.closeRequest e).buffer.closeAhead = s.buffer.closeAhead := by
  rcases s.closeRequest_cases e with h | ⟨L, -, -, -, ⟨-, h⟩ | ⟨p, -, h⟩⟩ <;> rw [h] <;> rfl

/-- The two checks after a write into an OPEN entry are one close request, when the entry is full or its window is
DIRECT (R24, R12). -/
theorem State.afterWrite_eq (s : State) (e : EntryIx) (attr : Attr) : s.afterWrite e attr =
    if s.buffer.entries[e].valid = BitVec.allOnes 32 ∨ attr = .direct then s.closeRequest e else s := by
  unfold State.afterWrite
  dsimp only
  by_cases hfull : s.buffer.entries[e].valid = BitVec.allOnes 32
  · simp only [hfull, if_true, true_or, State.closeRequest_closeRequest, ite_self]
  · simp only [hfull, if_false, false_or]

/-- An age expiry of an OPEN entry whose timer runs is a close request, the timer then at 0 (R28). -/
theorem State.ageExpires_open (ho : s.buffer.entries[e].state = .opened)
    (ha : s.buffer.entries[e].ageTimer.isSome = true) : s.ageExpires e =
      ((s.setEntry e { s.buffer.entries[e] with ageTimer := some 0 }).closeRequest e).settle := by
  obtain ⟨u, hu⟩ := Option.isSome_iff_exists.mp ha
  simp only [State.ageExpires, hu, ho, if_true]

/-- A close-pending entry whose line has no predecessor any more commits (R35). -/
theorem State.closePendingCommit_commits (hl : s.buffer.entries[e].line = some L)
    (ho : s.buffer.entries[e].state = .opened) (hc : s.buffer.entries[e].closePending = true)
    (hp : s.buffer.predecessor L = none) : s.closePendingCommit e = (s.commit e L).settle := by
  simp only [State.closePendingCommit, hl, ho, hc, hp, and_self, if_true]

end CloseRequest

/-- Settles O29: the close request case by case, and the two commands that stand for one. -/
theorem closeRequestCommitsOrMarks : Obligations.CloseRequestCommitsOrMarks := by
  intro s e L
  exact ⟨State.closeRequest_of_not, fun hl => ⟨fun ho hc hp => State.closeRequest_pends hl ho hc hp,
    fun ho hc hp => State.closeRequest_commits hl ho hc hp,
    fun ho ha => congrArg Host.Outcome.next (State.ageExpires_open ho ha),
    fun ho hc hp => congrArg Host.Outcome.next (State.closePendingCommit_commits hl ho hc hp)⟩⟩

/-! ### The bytes of a write and of the overlay (R22, R38) -/

/-- Positions of the span hold the bytes stored, every other its old byte (R22). -/
theorem placeBytes_get (d : LineBytes) (p : Nat) (bytes : List Byte) (q : Fin 32) : (placeBytes p bytes d)[q] =
    if h : p ≤ q.val ∧ q.val < p + bytes.length then bytes[q.val - p]'(by omega) else d[q] := by
  simp only [placeBytes, Fin.getElem_fin, Vector.getElem_ofFn]
  split
  · next hp =>
    split
    · next h => exact List.getD_eq_getElem _ _ (by omega)
    · next h => exact List.getD_eq_default _ _ (by omega)
  · next hp => rw [dif_neg fun h => hp h.1]

theorem or_spanSet_get (v : PosSet) (p n : Nat) (q : Fin 32) :
    (v ||| spanSet p n).getLsbD q = true ↔ v.getLsbD q = true ∨ (p ≤ q.val ∧ q.val < p + n) := by
  rw [BitVec.getLsbD_or, getLsbD_spanSet p n q q.isLt, Bool.or_eq_true, Bool.and_eq_true, decide_eq_true_eq,
    decide_eq_true_eq]

theorem overlayBytes_get (v : PosSet) (u d : LineBytes) (q : Fin 32) :
    (overlayBytes v u d)[q] = if v.getLsbD q then u[q] else d[q] := by
  simp [overlayBytes]

/-- The positions of the overlay are those of the predecessor and of the OPEN entry (R38). -/
theorem CombineBuffer.overlay_pos (b : CombineBuffer) (L : Nat) (q : Fin 32) : (b.overlay L).1.getLsbD q =
    ((b.bytesOf (b.predecessor L)).1.getLsbD q || (b.bytesOf (b.openEntry L)).1.getLsbD q) := by
  simp [CombineBuffer.overlay]

/-- The OPEN entry's byte first, then the predecessor's (R38). -/
theorem CombineBuffer.overlay_byte (b : CombineBuffer) (L : Nat) (q : Fin 32) : (b.overlay L).2[q] =
    if (b.bytesOf (b.openEntry L)).1.getLsbD q then (b.bytesOf (b.openEntry L)).2[q]
    else if (b.bytesOf (b.predecessor L)).1.getLsbD q then (b.bytesOf (b.predecessor L)).2[q]
    else (Vector.replicate 32 0)[q] := by
  simp only [CombineBuffer.overlay, overlayBytes_get]

/-- A lookup whose entry, if there is one, does not hold the position. -/
theorem CombineBuffer.bytesOf_pos_false {b : CombineBuffer} {o : Option EntryIx} {q : Fin 32}
    (h : ∀ e, o = some e → b.entries[e].valid.getLsbD q = false) : (b.bytesOf o).1.getLsbD q = false := by
  cases o with
  | none => simp [CombineBuffer.bytesOf]
  | some e => exact h e rfl

/-- Settles O30: by the lookups of the OPEN entry and the predecessor. -/
theorem overlayTakesTheNewerByte : Obligations.OverlayTakesTheNewerByte := by
  intro b L q
  refine ⟨fun e ho hq => ?_, fun p hp hq hnone => ?_, fun hnone hnone' => ?_⟩
  · have hpos : (b.bytesOf (b.openEntry L)).1.getLsbD q = true := by rw [ho]; exact hq
    rw [CombineBuffer.overlay_pos, CombineBuffer.overlay_byte, hpos, Bool.or_true, if_pos rfl, ho]
    exact ⟨rfl, rfl⟩
  · have hpos : (b.bytesOf (b.predecessor L)).1.getLsbD q = true := by rw [hp]; exact hq
    rw [CombineBuffer.overlay_pos, CombineBuffer.overlay_byte, CombineBuffer.bytesOf_pos_false hnone, hpos,
      Bool.true_or, if_neg Bool.false_ne_true, if_pos rfl, hp]
    exact ⟨rfl, rfl⟩
  · rw [CombineBuffer.overlay_pos, CombineBuffer.bytesOf_pos_false hnone, CombineBuffer.bytesOf_pos_false hnone']
    rfl

/-! ### Writes at the head (R12, R20-R27, R99) -/

section HeadWrite
variable {s : State} {rest : List Request} {m : MasterIx} {t : Tag} {a : UpAddr} {bytes : List Byte} {A : Nat}
  {n : RegionIx} {attr : Attr}

/-- A WRITE at the head in RUN that passes the checks is offered to the combine buffer (R139). -/
theorem exec_headOffer_write (hi : s.upstream.intake = .write m t a bytes :: rest) (hb : s.upstream.busrst = false)
    (hr : s.control.bridge = .run) (h1 : 1 ≤ bytes.length) (h32 : a.toNat % 32 + bytes.length ≤ 32)
    (hl : s.regionMap.lookup m true a = .mapped A n attr) :
    exec .headOffer s = .next (s.offerWrite (A / 32) (A % 32) bytes m attr).settle := by
  have hex : s.examinable = true := by simp [State.examinable, hr, hb]
  have hin : inLine a bytes.length = true := decide_eq_true ⟨h1, h32⟩
  simp only [exec, execHeadOffer, hex, hi, List.isEmpty_cons, Bool.not_false, Bool.and_self, if_true, State.offerHead,
    State.examineWrite, hr, BridgeState.headRefusal, hin, Bool.true_eq_false, if_false, hl]
  rfl

/-- Settles O22: the write's bytes are stored, the checks after it are one close request, and the bytes are as
placed. -/
theorem writesMergeIntoTheOpenEntry : Obligations.WritesMergeIntoTheOpenEntry := by
  refine ⟨fun s rest m t a bytes A n attr e hi hb hr h1 h32 hl he => ?_, fun d v p bytes q _ =>
    ⟨placeBytes_get d p bytes q, or_spanSet_get v p bytes.length q⟩⟩
  have hoffer : s.offerWrite (A / 32) (A % 32) bytes m attr =
      ((s.storeInto e (A % 32) bytes m).afterWrite e attr).popHead := by
    simp only [State.offerWrite, he]
  have hentry : (s.storeInto e (A % 32) bytes m).buffer.entries[e] = s.buffer.entries[e].store (A % 32) bytes m := by
    rw [State.storeInto_buffer, getElem_set_fin, if_pos rfl]
  rw [exec_headOffer_write hi hb hr h1 h32 hl, hoffer, State.afterWrite_eq, hentry]
  exact congrArg Host.Outcome.next (by rw [apply_ite State.popHead, apply_ite State.settle]; rfl)

/-- The entry a write opens: its bytes, over zeros, are all it has (R23, log entry 10). -/
theorem Entry.opening_store (L p : Nat) (bytes : List Byte) (m : MasterIx) (order : BitVec 16) (timer : Option Nat) :
    (Entry.opening L order timer).store p bytes m =
      { state := .opened, line := some L, valid := spanSet p bytes.length
        data := placeBytes p bytes (Vector.replicate 32 0), contributors := BitVec.twoPow 8 m
        openedOrder := some order, closePending := false, ageTimer := timer, heldReason := none } := by
  simp [Entry.store, Entry.opening, Entry.free, insertBit]

/-- The pressure check compares the FREE count with CLOSE-AHEAD (R25). -/
theorem State.pressure_eq (s : State) : s.pressure =
    if s.buffer.freeCount ≤ s.buffer.closeAhead then s.closeRequest? s.buffer.oldestOpen else s := by
  simp only [State.pressure, CombineBuffer.short, decide_eq_true_eq]

/-- Every index is counted exactly when every one passes. -/
theorem countFin_eq_all {n : Nat} {p : Fin n → Bool} : countFin n p = n ↔ ∀ i : Fin n, p i = true := by
  have h := List.length_filter_eq_length_iff (p := p) (l := List.finRange n)
  rw [List.length_finRange] at h
  exact h.trans ⟨fun g i => g i (List.mem_finRange i), fun g i _ => g i⟩

theorem CombineBuffer.allHeld_iff {b : CombineBuffer} :
    b.allHeld = true ↔ ∀ e : EntryIx, b.entries[e].state = .held := by
  simp only [CombineBuffer.allHeld, CombineBuffer.count, beq_iff_eq, countFin_eq_all]

/-- Without an OPEN entry no close request has an effect (R29). -/
theorem State.closeRequest?_of_not_open (h : ∀ e : EntryIx, s.buffer.entries[e].state ≠ .opened) (o : Option EntryIx) :
    s.closeRequest? o = s := by
  cases o with
  | none => rfl
  | some e => exact State.closeRequest_of_not fun g => h e g.1

/-- A write that waits while some entry is not HELD (R26, R27). -/
theorem State.freeEntryWait_of_not_allHeld (h : s.buffer.allHeld = false) : s.freeEntryWait =
    (s.closeRequest? s.buffer.oldestOpen).headWaits (.freeEntry s.upstream.headWait.stuck) := by
  simp only [State.freeEntryWait, h, Bool.false_and, Bool.false_eq_true, if_false, Bool.or_false]

/-- A write that waits while every entry is HELD: BUFFER-STUCK is raised once in the wait (R27). -/
theorem State.freeEntryWait_of_allHeld (h : s.buffer.allHeld = true) : s.freeEntryWait =
    (if s.upstream.headWait.stuck then s else s.raise .bufferStuck).headWaits (.freeEntry true) := by
  have hnone : ∀ e : EntryIx, s.buffer.entries[e].state ≠ .opened := fun e => by
    rw [CombineBuffer.allHeld_iff.mp h e]; decide
  simp only [State.freeEntryWait, h, Bool.true_and, Bool.or_true]
  cases s.upstream.headWait.stuck with
  | false =>
    have hraised : ∀ o, (s.raise .bufferStuck).closeRequest? o = s.raise .bufferStuck :=
      State.closeRequest?_of_not_open hnone
    simp only [Bool.not_false, if_true, hraised, Bool.false_eq_true, if_false]
  | true => simp only [Bool.not_true, Bool.false_eq_true, if_false, State.closeRequest?_of_not_open hnone, if_true]

section Unopened
variable (hopen : s.buffer.openEntry (A / 32) = none)
include hopen

theorem State.offerWrite_absorbs {e : EntryIx} (hheld : s.buffer.heldEntry (A / 32) = some e) :
    s.offerWrite (A / 32) (A % 32) bytes m attr = (s.absorb e (A % 32) bytes m).popHead := by
  simp only [State.offerWrite, hopen, hheld]

theorem State.offerWrite_allocates {e : EntryIx} (hheld : s.buffer.heldEntry (A / 32) = none)
    (hfree : s.buffer.lowestFree = some e) : s.offerWrite (A / 32) (A % 32) bytes m attr =
      (((s.allocate e (A / 32) (A % 32) bytes m).afterWrite e attr).pressure).popHead := by
  simp only [State.offerWrite, hopen, hheld, hfree]

theorem State.offerWrite_waits (hheld : s.buffer.heldEntry (A / 32) = none) (hfree : s.buffer.lowestFree = none) :
    s.offerWrite (A / 32) (A % 32) bytes m attr = s.freeEntryWait := by
  simp only [State.offerWrite, hopen, hheld, hfree]

end Unopened

/-- The buffer with an entry allocated, and the change of the line's entries noted (R20, R23). -/
theorem State.allocate_eq (s : State) (e : EntryIx) (L p : Nat) (bytes : List Byte) (m : MasterIx) :
    s.allocate e L p bytes m = State.wake { s with
      buffer := s.buffer.enlist e ((Entry.opening L s.buffer.counter s.buffer.newTimer).store p bytes m) }
        (.entryChanged L) := rfl

/-- The checks after a write leave CLOSE-AHEAD as it was (R24, R25). -/
theorem State.afterWrite_closeAhead (s : State) (e : EntryIx) (attr : Attr) :
    (s.afterWrite e attr).buffer.closeAhead = s.buffer.closeAhead := by
  rw [State.afterWrite_eq]
  split
  · exact s.closeRequest_closeAhead e
  · rfl

/-- Settles O23: with a HELD entry, with a FREE entry, and with neither. -/
theorem writesAllocateAbsorbOrWait : Obligations.WritesAllocateAbsorbOrWait := by
  intro s rest m t a bytes A n attr hi hb hr h1 h32 hl hopen
  have hexec := exec_headOffer_write hi hb hr h1 h32 hl
  refine ⟨fun e hheld => ?_, fun e hheld hfree hlow => ?_, fun hheld hfull => ?_⟩
  · rw [hexec, State.offerWrite_absorbs hopen hheld]
    rfl
  · have hlowest : s.buffer.lowestFree = some e :=
      lowestFin_some.mpr ⟨beq_iff_eq.mpr hfree, fun i hlt => beq_eq_false_iff_ne.mpr (hlow i hlt)⟩
    have hentry : (s.allocate e (A / 32) (A % 32) bytes m).buffer.entries[e].valid = spanSet (A % 32) bytes.length := by
      rw [State.allocate_buffer, CombineBuffer.enlist_entry, if_pos rfl, Entry.opening_store]
    rw [hexec, State.offerWrite_allocates hopen hheld hlowest, State.pressure_eq, State.afterWrite_closeAhead,
      State.afterWrite_eq, hentry, State.allocate_eq, Entry.opening_store]
    rfl
  · have hnone : s.buffer.lowestFree = none := lowestFin_none.mpr fun e => beq_eq_false_iff_ne.mpr (hfull e)
    rw [hexec, State.offerWrite_waits hopen hheld hnone]
    refine ⟨fun ⟨e, he⟩ => ?_, fun hall => ?_⟩
    · rw [State.freeEntryWait_of_not_allHeld (Bool.eq_false_iff.mpr fun h => he (CombineBuffer.allHeld_iff.mp h e))]
    · rw [State.freeEntryWait_of_allHeld (CombineBuffer.allHeld_iff.mpr hall)]

end HeadWrite

end Sys2Proof.Machine

/-! ## Timers, events out of place, the flush and the scrubber's commands (R28, R32, R111, R125, R126, R131) -/

namespace Sys2Proof.Machine

/-! ### A microsecond (log entry 4) -/

section Microsecond
variable {s : State}

theorem State.runTimers_entry (s : State) (e : EntryIx) : s.runTimers.buffer.entries[e] = s.buffer.entries[e].tick := by
  simp [State.runTimers]

/-- The timers of the entries run down one by one. -/
theorem State.runTimers_entries (s : State) : s.runTimers.buffer.entries = s.buffer.entries.map Entry.tick := by
  ext1
  simp [State.runTimers]

/-- No timer of the array port has run out. -/
theorem State.firePort_of_ne (hi : ∀ c, s.port.condition ≠ .issued c 0) (ha : ∀ r, s.port.condition ≠ .aborting r 0) :
    s.firePort = s := by
  unfold State.firePort
  split
  · next c h => exact absurd h (hi c)
  · next r h => exact absurd h (ha r)
  · rfl

theorem State.fireAge_of_ne {e : EntryIx} (h : s.buffer.entries[e].ageTimer ≠ some 0) : s.fireAge e = s :=
  if_neg fun g => h g.1

theorem State.fireScrub_of_ne (h : s.scrub.timer ≠ some 0) : s.fireScrub = s := if_neg h

/-- A timer with at least 2 microseconds left has not run out after one. -/
theorem tickTimer_ne_zero {t : Option Nat} (h : ∀ u, t = some u → 2 ≤ u) : tickTimer t ≠ some 0 := by
  cases t with
  | none => nofun
  | some u =>
    have hu := h u rfl
    simp only [tickTimer, Option.map_some, ne_eq, Option.some.injEq]
    omega

theorem PortCondition.tick_ne_issued {p : PortCondition} (h : ∀ c t, p = .issued c t → 2 ≤ t) (c : InProgress) :
    p.tick ≠ .issued c 0 := by
  cases p with
  | issued c' t =>
    have ht := h c' t rfl
    simp only [PortCondition.tick, ne_eq, PortCondition.issued.injEq, not_and]
    omega
  | idle | aborting => nofun

theorem PortCondition.tick_ne_aborting {p : PortCondition} (h : ∀ r t, p = .aborting r t → 2 ≤ t)
    (r : Option InProgress) : p.tick ≠ .aborting r 0 := by
  cases p with
  | aborting r' t =>
    have ht := h r' t rfl
    simp only [PortCondition.tick, ne_eq, PortCondition.aborting.injEq, not_and]
    omega
  | idle | issued => nofun

/-- A microsecond in which no timer runs out only lowers the timers. -/
theorem State.microsecond_quiet (hi : ∀ c t, s.port.condition = .issued c t → 2 ≤ t)
    (ha : ∀ r t, s.port.condition = .aborting r t → 2 ≤ t)
    (he : ∀ (e : EntryIx) (t : Nat), s.buffer.entries[e].ageTimer = some t → 2 ≤ t)
    (hs : ∀ t, s.scrub.timer = some t → 2 ≤ t) : s.microsecond = s.runTimers := by
  have hport : s.runTimers.firePort = s.runTimers :=
    State.firePort_of_ne (PortCondition.tick_ne_issued hi) (PortCondition.tick_ne_aborting ha)
  have hage : ∀ e, s.runTimers.fireAge e = s.runTimers := fun e => by
    refine State.fireAge_of_ne ?_
    rw [State.runTimers_entry]
    exact tickTimer_ne_zero (he e)
  unfold State.microsecond
  rw [hport, List.foldl_fixed' hage]
  exact State.fireScrub_of_ne (tickTimer_ne_zero hs)

theorem step_of_empty (hp : s.pending = []) : step s = .next s.microsecond := by
  simp only [step, hp]

end Microsecond

/-- Settles O2: a step on an empty queue is a microsecond, and the timers that have run out expire in turn. -/
theorem quietMicrosecondRunsTheTimers : Obligations.QuietMicrosecondRunsTheTimers := by
  intro s hp ticked run portFired aged
  have hticked : s.runTimers = ticked := by
    have hcondition : ticked.port.condition = s.port.condition.tick := by
      simp only [ticked]
      cases s.port.condition <;> rfl
    have hentries : ticked.buffer.entries = s.runTimers.buffer.entries := s.runTimers_entries.symm
    calc s.runTimers
        = { ticked with
            buffer := { ticked.buffer with entries := s.runTimers.buffer.entries }
            port := { ticked.port with condition := s.port.condition.tick } } := rfl
      _ = ticked := by rw [← hentries, ← hcondition]
  have hport : portFired = s.runTimers.firePort := by
    rw [hticked]
    simp only [portFired, State.firePort]
    cases ticked.port.condition with
    | idle => rfl
    | issued c t => cases t <;> rfl
    | aborting r t => cases t <;> rfl
  have haged : aged = (List.finRange 16).foldl State.fireAge s.runTimers.firePort := by
    rw [← hport]; rfl
  rw [step_of_empty hp]
  refine ⟨fun hi ha he hs => ?_, ?_⟩
  · rw [State.microsecond_quiet hi ha he hs, hticked]
  · rw [haged]; rfl

/-! ### Events out of place (log entry 16) -/

section OutOfPlace
variable {s : State} {e : EntryIx}

theorem State.nextGrant_of_full (h : 16 ≤ s.upstream.responses.length) : s.nextGrant = none := by
  have hslot : s.slotAvailable = false := decide_eq_false (Nat.not_lt.mpr h)
  simp only [State.nextGrant, hslot, Bool.false_eq_true, if_false]

theorem State.ageExpires_of_not (h : s.buffer.entries[e].state ≠ .opened ∨ s.buffer.entries[e].ageTimer = none) :
    s.ageExpires e = s := by
  unfold State.ageExpires
  dsimp only
  split
  · rfl
  · next t ht => exact if_neg (h.resolve_right (by rw [ht]; nofun))

theorem State.closePendingCommit_of_not
    (h : s.buffer.entries[e].state ≠ .opened ∨ s.buffer.entries[e].closePending = false) :
    s.closePendingCommit e = s := by
  unfold State.closePendingCommit
  dsimp only
  split
  · rfl
  · refine if_neg fun g => ?_
    obtain ⟨ho, hc, -⟩ := g
    exact h.elim (fun hne => hne ho) fun hf => Bool.false_ne_true (hf.symm.trans hc)

theorem State.issueDue_of_not (h : s.port.condition ≠ .idle ∨ s.port.queue = []) : s.issueDue = false := by
  unfold State.issueDue
  rcases h with h | h
  · rw [beq_eq_false_iff_ne.mpr h]; rfl
  · simp [h]

theorem State.arrayDone_of_not (words : Vector CodedWord 4) (h : ∀ c t, s.port.condition ≠ .issued c t) :
    s.arrayDone words = s := by
  unfold State.arrayDone
  split
  · next c t hc => exact absurd hc (h c t)
  · rfl

theorem State.arrayFault_of_not (h : ∀ c t, s.port.condition ≠ .issued c t) : s.arrayFault = s := by
  unfold State.arrayFault
  split
  · next c t hc => exact absurd hc (h c t)
  · rfl

theorem State.completionTimeout_of_not (h : ∀ c t, s.port.condition ≠ .issued c t) : s.completionTimeout = s := by
  unfold State.completionTimeout
  split
  · next c t hc => exact absurd hc (h c t)
  · rfl

theorem State.abortEnd_of_not (h : ∀ r t, s.port.condition ≠ .aborting r t) : s.abortEnd = s := by
  unfold State.abortEnd
  split
  · next c t hc => exact absurd hc (h _ t)
  · next t hc => exact absurd hc (h _ t)
  · rfl

theorem State.scrubExpires_idle (h : s.scrub.timer = none) : s.scrubExpires = s := by
  simp only [State.scrubExpires, h]

theorem State.quiesceDue_of_ne (h : s.control.bridge ≠ .quiescing) : s.quiesceDue = false := by
  rw [State.quiesceDue, beq_eq_false_iff_ne.mpr h, Bool.false_and]

theorem State.clearDue_of_not (h : s.control.bridge ≠ .restarting ∨ s.port.condition ≠ .idle) : s.clearDue = false := by
  unfold State.clearDue
  rcases h with h | h
  · rw [beq_eq_false_iff_ne.mpr h, Bool.false_and]
  · rw [beq_eq_false_iff_ne.mpr h, Bool.and_false]

theorem State.clock_deselected (h : s.mgmt.msel = false) (edge : Edge) : s.clock edge = s := if_pos h

theorem exec_headOffer_of_not (h : s.examinable = false ∨ s.upstream.intake = []) : exec .headOffer s = .next s := by
  refine congrArg Host.Outcome.next (if_neg ?_)
  rcases h with h | h <;> simp [h]

/-- A step whose condition does not hold is not taken. -/
theorem next_of_false {c : Bool} (h : c = false) (u : State) :
    (Host.Outcome.next (if c then u else s) : Host.Outcome State Fault Refusal) = .next s := by
  rw [h]; rfl

end OutOfPlace

/-- Settles O44: each event's condition fails, and its meaning then answers the state it was given. -/
theorem eventsOutOfPlaceChangeNothing : Obligations.EventsOutOfPlaceChangeNothing := by
  intro s e words
  refine ⟨exec_headOffer_of_not, fun h => congrArg Host.Outcome.next (State.ageExpires_of_not h),
    fun h => congrArg Host.Outcome.next (State.closePendingCommit_of_not h), fun h => ?_,
    fun h => next_of_false (by rw [h]; rfl) _, fun h => next_of_false (State.issueDue_of_not h) _,
    fun h => ⟨congrArg Host.Outcome.next (State.arrayDone_of_not words h),
      congrArg Host.Outcome.next (State.arrayFault_of_not h),
      congrArg Host.Outcome.next (State.completionTimeout_of_not h)⟩,
    fun h => congrArg Host.Outcome.next (State.abortEnd_of_not h),
    fun h => congrArg Host.Outcome.next (State.scrubExpires_idle h),
    fun h => next_of_false (State.quiesceDue_of_ne h) _, fun h => next_of_false (State.clearDue_of_not h) _,
    fun h edge => congrArg Host.Outcome.next (State.clock_deselected h edge)⟩
  simp only [exec, execReadResponsePlaced, execBitopResponsePlaced, execBarrierResponsePlaced,
    State.nextGrant_of_full h, and_self]

/-! ### FLUSH, SCRUB-START and SCRUB-STOP (R32, R131) -/

/-- SCRUB-STOP keeps the operations that are no QUEUED SCRUB (R131). -/
theorem not_isQueuedScrub_eq : (fun o : Operation => !o.isQueuedScrub) = fun o => match o.work, o.phase with
    | .scrub, .queued => false
    | _, _ => true := by
  funext o
  obtain ⟨work, line, order, phase⟩ := o
  cases work <;> cases phase <;> rfl

section Accepted
variable {s : State} {ok : Bool}

/-- A command without payload that is accepted in this state is carried out (R179). -/
theorem State.replied_of_accepted (f : State → MgmtResult) (h : ok = true) :
    (s.acceptedIn ok [] f).replied = (f s).replied := by
  rw [h]; rfl

/-- A command that is not accepted in this state is answered BAD-STATE (R179). -/
theorem State.replied_of_not_accepted (f : State → MgmtResult) (h : ok = false) :
    (s.acceptedIn ok [] f).replied = s.reply .badState [] := by
  rw [h]; rfl

theorem State.scrubStart_stopped (h : s.scrub.running = false) : s.scrubStart =
    { s with scrub := { s.scrub with running := true, timer := some s.scrub.interval } } :=
  if_neg (Bool.eq_false_iff.mp h)

theorem State.scrubStart_running (h : s.scrub.running = true) : s.scrubStart = s := if_pos h

end Accepted

/-- Settles O53: each command by the bridge state it is accepted in. -/
theorem flushAndScrubCommands : Obligations.FlushAndScrubCommands := by
  intro s
  have hstart : s.control.bridge = .run → exec (.scrubStart []) s = .next (s.scrubStart.reply .ok []) := fun h =>
    congrArg Host.Outcome.next (State.replied_of_accepted (fun s => s.scrubStart.okay) (beq_iff_eq.mpr h))
  have hstop : s.control.bridge ≠ .restarting → exec (.scrubStop []) s = .next (s.scrubStop.reply .ok []) := fun h =>
    congrArg Host.Outcome.next (State.replied_of_accepted (fun s => s.scrubStop.okay) (bne_iff_ne.mpr h))
  refine ⟨fun h => ?_, fun h => ?_, fun h hs => ?_, fun h hs => ?_, fun h => ?_, fun h => ?_, fun h => ?_⟩
  · exact congrArg Host.Outcome.next (State.replied_of_accepted (fun s => s.flushAll.okay) (beq_iff_eq.mpr h))
  · exact congrArg Host.Outcome.next (State.replied_of_not_accepted _ (beq_eq_false_iff_ne.mpr h))
  · rw [hstart h, State.scrubStart_stopped hs]
  · rw [hstart h, State.scrubStart_running hs]
  · exact congrArg Host.Outcome.next (State.replied_of_not_accepted _ (beq_eq_false_iff_ne.mpr h))
  · rw [hstop h, State.scrubStop, not_isQueuedScrub_eq]
    rfl
  · exact congrArg Host.Outcome.next (State.replied_of_not_accepted _ (bne_eq_false_iff_eq.mpr h))

end Sys2Proof.Machine

/-! ## The arbiter: which operation a dispatch takes, and for which lane (R46, R49-R51) -/

namespace Sys2Proof.Machine

/-! ### Eligibility (R46) -/

/-- Operation `o` stands at place `i`, QUEUED, with no earlier operation of its line (R46). -/
def Eligible (ops : List Operation) (i : Nat) (o : Operation) : Prop :=
  ops[i]? = some o ∧ o.phase = .queued ∧ ∀ (j : Nat) (p : Operation), j < i → ops[j]? = some p → p.line ≠ o.line

theorem mem_take_iff {ops : List Operation} {i : Nat} {p : Operation} :
    p ∈ ops.take i ↔ ∃ j, j < i ∧ ops[j]? = some p := by
  simp only [List.mem_iff_getElem?, List.getElem?_take, Option.ite_none_right_eq_some]

theorem eligibleAt_iff {ops : List Operation} {i : Nat} : eligibleAt ops i = true ↔ ∃ o, Eligible ops i o := by
  unfold eligibleAt Eligible
  cases h : ops[i]? with
  | none => simp
  | some o =>
    simp only [Option.some.injEq, exists_eq_left', Bool.and_eq_true, beq_iff_eq, List.all_eq_true, bne_iff_ne]
    refine and_congr_right fun _ => ⟨fun hall j p hj hp => hall p (mem_take_iff.mpr ⟨j, hj, hp⟩), fun hall p hp => ?_⟩
    obtain ⟨j, hj, hp⟩ := mem_take_iff.mp hp
    exact hall j p hj hp

/-- The test by which `oldestEligible` looks for an operation of a class. -/
theorem eligibleOfClass_iff {ops : List Operation} {c : ArbClass} {i : Nat} :
    (eligibleAt ops i && ((ops[i]?.map fun o => o.work.arbClass) == some c)) = true ↔
      ∃ o, Eligible ops i o ∧ o.work.arbClass = c := by
  rw [Bool.and_eq_true, eligibleAt_iff, ← exists_and_right]
  refine exists_congr fun o => and_congr_right fun h => ?_
  rw [h.1]
  simp

theorem Eligible.lt_length {ops : List Operation} {i : Nat} {o : Operation} (h : Eligible ops i o) : i < ops.length :=
  (List.getElem?_eq_some_iff.mp h.1).1

theorem oldestEligible_some {ops : List Operation} {c : ArbClass} {i : Nat} (h : oldestEligible ops c = some i) :
    (∃ o, Eligible ops i o ∧ o.work.arbClass = c) ∧
      ∀ (j : Nat) (p : Operation), Eligible ops j p → p.work.arbClass = c → i ≤ j := by
  obtain ⟨hi, -, hold⟩ := List.find?_range_eq_some.mp h
  refine ⟨eligibleOfClass_iff.mp hi, fun j p hp hc => Nat.le_of_not_lt fun hj => ?_⟩
  have hno := hold j hj
  rw [eligibleOfClass_iff.mpr ⟨p, hp, hc⟩] at hno
  exact absurd hno (by decide)

theorem oldestEligible_none {ops : List Operation} {c : ArbClass} (h : oldestEligible ops c = none) {j : Nat}
    {p : Operation} (hp : Eligible ops j p) : p.work.arbClass ≠ c := fun hc => by
  have hno := List.find?_range_eq_none.mp h j hp.lt_length
  rw [eligibleOfClass_iff.mpr ⟨p, hp, hc⟩] at hno
  exact absurd hno (by decide)

/-! ### The choice (R49, R50) -/

/-- The place of a class in the order of R49. -/
def ArbClass.rank (short : Bool) (c : ArbClass) : Nat := (classOrder short).idxOf c

theorem mem_classOrder (short : Bool) (c : ArbClass) : c ∈ classOrder short := by
  cases short <;> cases c <;> decide

/-- A class that the order names, other than `c` and not before it, comes after it. -/
theorem ArbClass.rank_lt {short : Bool} {pre post : List ArbClass} {c d : ArbClass}
    (h : classOrder short = pre ++ c :: post) (hd : d ∉ pre) (hne : d ≠ c) : c.rank short < d.rank short := by
  have hc : c.rank short ≤ pre.length := by
    rw [ArbClass.rank, h, List.idxOf_append]
    split
    · next hm => exact (List.idxOf_lt_length_of_mem hm).le
    · simp
  have hlast : pre.length < d.rank short := by
    rw [ArbClass.rank, h, List.idxOf_append_of_notMem hd, List.idxOf_cons_ne _ hne.symm]
    omega
  exact hc.trans_lt hlast

/-- The operation chosen is of the highest class that has an eligible one, and the oldest of its class (R49). -/
theorem State.chosenOp_some {s : State} {i : Nat} (h : s.chosenOp = some i) :
    ∃ o, Eligible s.opList.ops i o ∧ ∀ (j : Nat) (p : Operation), Eligible s.opList.ops j p →
      o.work.arbClass.rank s.buffer.short < p.work.arbClass.rank s.buffer.short ∨
        (o.work.arbClass = p.work.arbClass ∧ i ≤ j) := by
  obtain ⟨pre, c, post, horder, hc, hpre⟩ := List.findSome?_eq_some_iff.mp h
  obtain ⟨⟨o, ho, hoc⟩, hold⟩ := oldestEligible_some hc
  refine ⟨o, ho, fun j p hp => ?_⟩
  rw [hoc]
  by_cases hpc : p.work.arbClass = c
  · exact .inr ⟨hpc.symm, hold j p hp hpc⟩
  · exact .inl (ArbClass.rank_lt horder (fun hm => oldestEligible_none (hpre _ hm) hp rfl) hpc)

theorem State.chosenOp_isSome {s : State} {i : Nat} {o : Operation} (h : Eligible s.opList.ops i o) :
    ∃ j, s.chosenOp = some j := by
  refine Option.ne_none_iff_exists'.mp fun hn => ?_
  exact oldestEligible_none (List.findSome?_eq_none_iff.mp hn _ (mem_classOrder _ _)) h rfl

theorem State.idleLane_some {s : State} {k : LaneIx} :
    s.idleLane = some k ↔ s.lanes[k] = .idle ∧ ∀ j : LaneIx, j < k → s.lanes[j] ≠ .idle := by
  simp [State.idleLane, lowestFin_some]

theorem State.idleLane_isSome {s : State} {k : LaneIx} (h : s.lanes[k] = .idle) : ∃ j, s.idleLane = some j :=
  Option.ne_none_iff_exists'.mp fun hn => by simpa [h] using lowestFin_none.mp hn k

theorem BridgeState.dispatches_iff {b : BridgeState} : b.dispatches = true ↔ b = .run ∨ b = .quiescing := by
  cases b <;> decide

theorem State.dispatchChoice_some {s : State} {k : LaneIx} {i : Nat} :
    s.dispatchChoice = some (k, i) ↔
      s.control.bridge.dispatches = true ∧ s.idleLane = some k ∧ s.chosenOp = some i := by
  unfold State.dispatchChoice
  dsimp only
  split
  · next hb => cases s.idleLane <;> cases s.chosenOp <;> simp [hb]
  · next hb => simp [hb]

/-- A dispatch that is due takes an eligible operation for an IDLE lane. -/
theorem State.dispatchChoice_eligible {s : State} {k : LaneIx} {i : Nat} (h : s.dispatchChoice = some (k, i)) :
    s.lanes[k] = .idle ∧ ∃ o, Eligible s.opList.ops i o := by
  obtain ⟨-, hk, hi⟩ := State.dispatchChoice_some.mp h
  obtain ⟨o, ho, -⟩ := State.chosenOp_some hi
  exact ⟨(State.idleLane_some.mp hk).1, o, ho⟩

/-- The FREE count is at or below CLOSE-AHEAD (R25, R49). -/
theorem CombineBuffer.short_eq (b : CombineBuffer) : b.short =
    decide (((List.finRange 16).filter fun e : EntryIx => decide (b.entries[e].state = .free)).length ≤ b.closeAhead) :=
  rfl

/-- Settles O33: the searches of the arbiter go through the classes in their order, and through the list by age. -/
theorem arbiterTakesTheOldestOfTheHighestClass : Obligations.ArbiterTakesTheOldestOfTheHighestClass := by
  intro s free short rank eligible
  have hrank : ∀ o, rank o = o.work.arbClass.rank s.buffer.short := by
    intro o
    have hshort : s.buffer.short = decide short := s.buffer.short_eq
    rw [hshort]
    obtain ⟨work, line, order, phase⟩ := o
    by_cases h : short <;> cases work <;> simp [rank, h, Work.arbClass, ArbClass.rank, classOrder]
  refine ⟨fun k i h => ?_, fun k i o hb hk ho => ?_⟩
  · obtain ⟨hb, hk, hi⟩ := State.dispatchChoice_some.mp h
    obtain ⟨hidle, hlow⟩ := State.idleLane_some.mp hk
    obtain ⟨o, ho, hbest⟩ := State.chosenOp_some hi
    refine ⟨BridgeState.dispatches_iff.mp hb, hidle, hlow, o, ho, fun j p hp => ?_⟩
    rw [hrank o, hrank p]
    exact (hbest j p hp).imp_right fun ⟨hc, hij⟩ => ⟨by rw [hc], hij⟩
  · obtain ⟨k', hk'⟩ := State.idleLane_isSome hk
    obtain ⟨i', hi'⟩ := State.chosenOp_isSome ho
    exact ⟨(k', i'), State.dispatchChoice_some.mpr ⟨BridgeState.dispatches_iff.mpr hb, hk', hi'⟩⟩

/-! ### Taking the operation (R34, R51, R53, R81) -/

/-- The state with the operation `o` at place `i` IN-FLIGHT with lane `k`. -/
def State.taking (s : State) (k : LaneIx) (i : Nat) (o : Operation) : State :=
  { s with opList := { s.opList with ops := s.opList.ops.set i { o with phase := .inFlight k } } }

section TakeOp
variable {s : State} {k : LaneIx} {i : Nat} {o : Operation}

/-- A dispatch that is due is made. -/
theorem exec_laneDispatch (h : s.dispatchChoice = some (k, i)) :
    exec .laneDispatch s = .next (s.takeOp k i).settle := by
  simp only [exec, execLaneDispatch, State.dispatch, h, Option.isSome_some, if_true]

theorem State.takeOp_eq (h : s.opList.ops[i]? = some o) : s.takeOp k i =
    ((s.taking k i o).startWork o.work).handOver k (s.firstCommand o.work) o.line := by
  have hset : s.opList.take i k = (s.taking k i o).opList := by
    simp [OperationList.take, State.taking, List.modify_eq_set_getElem?, h]
  simp only [State.takeOp, h, hset]
  rfl

theorem State.startDrain_committed {e : EntryIx} {L : Nat} (hs : s.buffer.entries[e].state = .committed)
    (hl : s.buffer.entries[e].line = some L) :
    s.startDrain e = (s.setEntry e s.buffer.entries[e].start).wake (.entryChanged L) := by
  simp only [State.startDrain, hl, hs, if_true, Entry.start]

theorem State.startBitOp_queued {r : BitIx} {b : BitReq} (h : s.bitops[r] = .queued b) :
    s.startBitOp r = s.setBit r (.inFlight b []) := by
  simp only [State.startBitOp, h]

theorem State.firstCommand_drain (d : DrainKind) (e : EntryIx) : s.firstCommand (.drain d e) =
    if d = .fullWrite then .lineWrite (lineWords s.buffer.entries[e].data) else .lineRead := by
  cases d <;> rfl

end TakeOp

/-- Settles O32: a dispatch that is due takes the operation, and each kind starts its own work. -/
theorem dispatchPutsTheOperationInFlight : Obligations.DispatchPutsTheOperationInFlight := by
  intro s k i o hdue ho taken draining
  rw [exec_laneDispatch hdue, State.takeOp_eq ho]
  refine ⟨fun d e L hw hs hl => ?_, fun r b hw hr => ?_, fun hw => ?_⟩
  · have hstart : (s.taking k i o).startWork (.drain d e) = _ := State.startDrain_committed (s := s.taking k i o) hs hl
    rw [hw, hstart, State.firstCommand_drain]
    split <;> rfl
  · have hstart : (s.taking k i o).startWork (.bitop r) = _ := State.startBitOp_queued (s := s.taking k i o) hr
    rw [hw, hstart]
    rfl
  · obtain ⟨readers, hw⟩ | hw := hw <;> rw [hw] <;> rfl

end Sys2Proof.Machine

/-! ## What a change does to the operation list, the lanes, and the drains the entries are due (R30-R35, R42-R51) -/

namespace Sys2Proof.Machine

/-- The drains that an entry is due in the operation list, each IN-FLIGHT or not: a COMMITTED entry one QUEUED, a
DRAINING entry one IN-FLIGHT, any other none (R47). An entry without a line, which no drain can act on, is due none. -/
def Entry.due (x : Entry) : List Bool :=
  match x.line, x.state with
  | some _, .committed => [false]
  | some _, .draining => [true]
  | _, _ => []

/-- What the laws of R46-R48 and R126 speak of: the drains each entry is due, the operation list, and the lanes. -/
structure Board where
  due : EntryIx → List Bool
  ops : List Operation
  lanes : Vector Lane 4

/-- The drains each entry of the buffer is due. -/
def CombineBuffer.due (b : CombineBuffer) (e : EntryIx) : List Bool := b.entries[e].due

def State.board (s : State) : Board := ⟨s.buffer.due, s.opList.ops, s.lanes⟩

/-- The work without a fill's readers list, which no law of the list looks at. -/
def Work.bare : Work → Work
  | .fill _ => .fill []
  | w => w

/-- The operation without its readers list. -/
def Operation.bare (o : Operation) : Operation := { o with work := o.work.bare }

/-- The drains due after the entry that the operation drains, if it is due `old`, is due `new`. -/
def Operation.turnsDue (o : Operation) (old new : List Bool) (due : EntryIx → List Bool) (e : EntryIx) : List Bool :=
  if o.drains e = true ∧ due e = old then new else due e

/-- Everything that can happen to the list, the lanes and the drains due, with what holds when it is done. -/
inductive BoardMove (b : Board) : Board → Prop where
  | commits (e : EntryIx) (d : DrainKind) (L : Nat) (n : BitVec 16) : b.due e = [] →
      BoardMove b { b with
        due := Function.update b.due e [false]
        ops := b.ops ++ [⟨.drain d e, L, n, .queued⟩] }
  | queues (w : Work) (L : Nat) (n : BitVec 16) : w.arbClass ≠ .drain →
      (w = .scrub → b.ops.any Operation.isScrub = false) → BoardMove b { b with ops := b.ops ++ [⟨w, L, n, .queued⟩] }
  | joins (ops : List Operation) : ops.map Operation.bare = b.ops.map Operation.bare → BoardMove b { b with ops := ops }
  | drops (p : Operation → Bool) : (∀ o, p o = false → o.phase = .queued ∧ o.work.arbClass ≠ .drain) →
      BoardMove b { b with ops := b.ops.filter p }
  | takes (k : LaneIx) (i : Nat) (o : Operation) (st : LaneStep) : Eligible b.ops i o → b.lanes[k] = .idle →
      BoardMove b ⟨o.turnsDue [false] [true] b.due, b.ops.set i { o with phase := .inFlight k },
        b.lanes.set k (.busy st)⟩
  | goesOn (k : LaneIx) (o : Operation) (st : LaneStep) : o ∈ b.ops → o.phase = .inFlight k →
      BoardMove b { b with lanes := b.lanes.set k (.busy st) }
  | finishes (k : LaneIx) (o : Operation) : o ∈ b.ops → o.phase = .inFlight k →
      BoardMove b ⟨o.turnsDue [true] [] b.due, b.ops.filter fun p => p.phase != .inFlight k,
        b.lanes.set k .idle⟩
  | empties : BoardMove b ⟨fun _ => [], [], Vector.replicate 4 .idle⟩

/-- A chain of moves of the board. -/
abbrev BoardMoves : Board → Board → Prop := Relation.ReflTransGen BoardMove

theorem BoardMoves.of_eq {b b' : Board} (h : b' = b) : BoardMoves b b' := h ▸ .refl

/-- What every move keeps, a chain keeps. -/
theorem BoardMoves.keeps {P : Board → Prop} (hm : ∀ b b', BoardMove b b' → P b → P b') {b b' : Board}
    (h : BoardMoves b b') (p : P b) : P b' := by
  induction h with
  | refl => exact p
  | tail _ hmove ih => exact hm _ _ hmove ih

/-- A move that leads to the board `b'`, however it is written. -/
theorem BoardMove.moves {b c b' : Board} (h : BoardMove b c) (hc : b' = c) : BoardMoves b b' := hc ▸ .single h

/-! ### Entries and what they are due -/

theorem Entry.due_of_line {x : Entry} (h : x.line = none) : x.due = [] := by
  unfold Entry.due
  rw [h]

theorem Entry.due_of_state {x : Entry} (hc : x.state ≠ .committed) (hd : x.state ≠ .draining) : x.due = [] := by
  unfold Entry.due
  split
  · next hs => exact absurd hs hc
  · next hs => exact absurd hs hd
  · rfl

theorem Entry.due_free {x : Entry} (h : x.state = .free) : x.due = [] :=
  Entry.due_of_state (by rw [h]; decide) (by rw [h]; decide)

theorem Entry.due_opened {x : Entry} (h : x.state = .opened) : x.due = [] :=
  Entry.due_of_state (by rw [h]; decide) (by rw [h]; decide)

theorem Entry.due_held {x : Entry} (h : x.state = .held) : x.due = [] :=
  Entry.due_of_state (by rw [h]; decide) (by rw [h]; decide)

theorem Entry.due_committed {x : Entry} {L : Nat} (hl : x.line = some L) (hs : x.state = .committed) :
    x.due = [false] := by
  simp only [Entry.due, hl, hs]

theorem Entry.due_draining {x : Entry} {L : Nat} (hl : x.line = some L) (hs : x.state = .draining) :
    x.due = [true] := by
  simp only [Entry.due, hl, hs]

/-- An entry is due a QUEUED drain exactly when it is COMMITTED, with a line. -/
theorem Entry.due_queued_iff {x : Entry} : x.due = [false] ↔ (∃ L, x.line = some L) ∧ x.state = .committed := by
  unfold Entry.due
  cases x.line <;> cases x.state <;> simp

/-- An entry is due an IN-FLIGHT drain exactly when it is DRAINING, with a line. -/
theorem Entry.due_flying_iff {x : Entry} : x.due = [true] ↔ (∃ L, x.line = some L) ∧ x.state = .draining := by
  unfold Entry.due
  cases x.line <;> cases x.state <;> simp

theorem Entry.due_eq {x y : Entry} (hl : x.line = y.line) (hs : x.state = y.state) : x.due = y.due := by
  unfold Entry.due
  rw [hl, hs]

/-- An entry replaced: only what it is due itself can change. -/
theorem CombineBuffer.due_of_set {b b' : CombineBuffer} {e : EntryIx} {x : Entry} (h : b'.entries = b.entries.set e x) :
    b'.due = Function.update b.due e x.due := by
  funext j
  rw [CombineBuffer.due, h, getElem_set_fin, Function.update_apply]
  by_cases hj : e = j
  · rw [if_pos hj, if_pos hj.symm]
  · rw [if_neg hj, if_neg (Ne.symm hj)]
    rfl

/-- An entry replaced by one that is due the same. -/
theorem CombineBuffer.due_of_set_same {b b' : CombineBuffer} {e : EntryIx} {x : Entry}
    (h : b'.entries = b.entries.set e x) (hx : x.due = b.entries[e].due) : b'.due = b.due := by
  rw [CombineBuffer.due_of_set h, hx]
  exact Function.update_eq_self e b.due

theorem State.board_of_due {s t : State} (hd : t.buffer.due = s.buffer.due) (ho : t.opList = s.opList)
    (hl : t.lanes = s.lanes) : t.board = s.board := by
  rw [State.board, State.board, hd, ho, hl]

/-! ### The board after each operation -/

section Boards
variable (s : State)

theorem State.logFault?_board (f : Option FaultRecord) : (s.logFault? f).board = s.board := by
  cases f <;> rfl

theorem State.placeRead_board (i : ReadIx) : (s.placeRead i).board = s.board := by
  unfold State.placeRead
  split <;> rfl

theorem State.placeBit_board (i : BitIx) : (s.placeBit i).board = s.board := by
  unfold State.placeBit
  split <;> rfl

theorem State.issue_board : s.issue.board = s.board := by
  unfold State.issue
  split <;> rfl

theorem State.answerReaders_board (readers : List ReadIx) (f : ReadReq → RecordStatus × List Byte) :
    (s.answerReaders readers f).board = s.board := by
  unfold State.answerReaders
  dsimp only
  split <;> rfl

theorem State.advanceScrub_board : s.advanceScrub.board = s.board := by
  unfold State.advanceScrub
  split <;> rfl

theorem State.backToQuiescing_board : s.backToQuiescing.board = s.board := by
  unfold State.backToQuiescing
  split <;> rfl

theorem State.runTimers_board : s.runTimers.board = s.board := by
  refine State.board_of_due (funext fun e => ?_) s.runTimers_opList s.runTimers_lanes
  simp only [CombineBuffer.due, State.runTimers_entry]
  exact Entry.due_eq rfl rfl

/-- An entry that is due no drain becomes FREE. -/
theorem State.freeEntry_board {e : EntryIx} (L : Nat) (h : s.buffer.entries[e].due = []) :
    (s.freeEntry e L).board = s.board :=
  State.board_of_due (CombineBuffer.due_of_set_same rfl h.symm) rfl rfl

theorem State.discard_board {e : EntryIx} (h : s.buffer.entries[e].state = .held) : (s.discard e).board = s.board := by
  unfold State.discard
  split
  · rfl
  · next L _ => exact s.freeEntry_board L (Entry.due_held h)

/-- Folding an OPEN entry into a HELD one changes no drain that is due (R98). -/
theorem State.fold_board (e : EntryIx) (L : Nat) : (s.fold e L).board = s.board := by
  unfold State.fold
  split
  · rfl
  · next f hf =>
    obtain ⟨ho, -⟩ := CombineBuffer.openEntry_spec hf
    have hopen : s.buffer.due f = [] := Entry.due_opened ho
    have hmerge (t : State) (ht : t.buffer.entries = s.buffer.entries.set e
        (s.buffer.entries[f].absorbing s.buffer.entries[e])) : t.buffer.due = s.buffer.due :=
      CombineBuffer.due_of_set_same ht (Entry.due_eq rfl rfl)
    refine (State.freeEntry_board _ L ?_).trans (State.board_of_due (hmerge _ rfl) rfl rfl)
    exact (congrFun (hmerge _ rfl) f).trans hopen

/-- An entry that is due no drain, and has a line, becomes COMMITTED, and its drain is appended (R30, R103, R104). -/
theorem State.board_of_commit {t : State} {e : EntryIx} {d : DrainKind} {L : Nat} {x : Entry}
    (h : s.buffer.entries[e].due = []) (he : t.buffer.entries = s.buffer.entries.set e x) (hx : x.due = [false])
    (ho : t.opList.ops = s.opList.ops ++ [⟨.drain d e, L, s.opList.counter, .queued⟩]) (hl : t.lanes = s.lanes) :
    BoardMoves s.board t.board := by
  refine (BoardMove.commits (b := s.board) e d L s.opList.counter h).moves ?_
  rw [State.board, CombineBuffer.due_of_set he, hx, ho, hl]
  rfl

theorem State.commit_boardMoves {e : EntryIx} {L : Nat} (ho : s.buffer.entries[e].state = .opened)
    (hl : s.buffer.entries[e].line = some L) : BoardMoves s.board (s.commit e L).board :=
  s.board_of_commit (Entry.due_opened ho) rfl
    (Entry.due_committed (x := s.buffer.entries[e].commit) hl rfl) rfl rfl

theorem State.recommit_boardMoves {e : EntryIx} (k : DrainKind) (hs : s.buffer.entries[e].state = .held) :
    BoardMoves s.board (s.recommit e k).board := by
  unfold State.recommit
  dsimp only
  split
  · exact .refl
  · next L hl =>
    exact s.board_of_commit (Entry.due_held hs) rfl
      (Entry.due_committed (x := s.buffer.entries[e].recommit) hl rfl) rfl rfl

theorem State.commitSuccessor_boardMoves (L : Nat) : BoardMoves s.board (s.commitSuccessor L).board := by
  unfold State.commitSuccessor
  split
  · next f hf =>
    split
    · obtain ⟨ho, hl⟩ := CombineBuffer.openEntry_spec hf
      exact s.commit_boardMoves ho hl
    · exact .refl
  · exact .refl

theorem Operation.bare_join (r : ReadIx) (o : Operation) : (o.join r).bare = o.bare := by
  unfold Operation.join
  split
  · next hw => simp [Operation.bare, hw, Work.bare]
  · rfl

/-- A read joins a fill that is listed, or a fill is appended (R65). -/
theorem State.attachFill_boardMoves (r : ReadIx) (L : Nat) : BoardMoves s.board (s.attachFill r L).board := by
  have hqueues : BoardMoves s.board (s.appendOp (.fill [r]) L).board :=
    (BoardMove.queues (.fill [r]) L s.opList.counter nofun nofun).moves rfl
  unfold State.attachFill
  split
  · split
    · refine (BoardMove.joins (b := s.board) _ ?_).moves rfl
      rw [OperationList.modifyLast, List.map_reverse, modifyFirst_map _ (fun o _ => o.bare_join r), ← List.map_reverse,
        List.reverse_reverse]
      rfl
    · exact hqueues
  · exact hqueues

/-! ### Dispatch (R34, R51) -/

theorem Operation.turnsDue_of_not_drain {o : Operation} (h : o.work.arbClass ≠ .drain) (old new : List Bool)
    (due : EntryIx → List Bool) : o.turnsDue old new due = due := by
  funext e
  refine if_neg fun hd => ?_
  obtain ⟨work, line, order, phase⟩ := o
  cases work with
  | drain d f => exact h rfl
  | fill _ | bitop _ | scrub => exact Bool.false_ne_true hd.1

theorem Operation.drains_of {o : Operation} {d : DrainKind} {e : EntryIx} (h : o.work = .drain d e) (j : EntryIx) :
    o.drains j = true ↔ e = j := by
  simp [Operation.drains, h]

/-- The entry that a drain drains is due `old`: it alone changes. -/
theorem Operation.turnsDue_drain {o : Operation} {d : DrainKind} {e : EntryIx} (h : o.work = .drain d e)
    {old new : List Bool} {due : EntryIx → List Bool} (hold : due e = old) :
    o.turnsDue old new due = Function.update due e new := by
  funext j
  simp only [Operation.turnsDue, Operation.drains_of h, Function.update_apply]
  by_cases hj : j = e
  · rw [if_pos hj, if_pos ⟨hj.symm, hj ▸ hold⟩]
  · rw [if_neg hj, if_neg fun hd => hj hd.1.symm]

/-- The entry that a drain drains is not due `old`: nothing changes. -/
theorem Operation.turnsDue_drain_of_ne {o : Operation} {d : DrainKind} {e : EntryIx} (h : o.work = .drain d e)
    {old new : List Bool} {due : EntryIx → List Bool} (hold : due e ≠ old) : o.turnsDue old new due = due := by
  funext j
  refine if_neg fun hd => hold ?_
  rw [(Operation.drains_of h j).mp hd.1]
  exact hd.2

theorem State.startDrain_due {o : Operation} {d : DrainKind} {e : EntryIx} (h : o.work = .drain d e) :
    (s.startDrain e).buffer.due = o.turnsDue [false] [true] s.buffer.due := by
  unfold State.startDrain
  dsimp only
  split
  · next L hl =>
    split
    · next hs =>
      rw [Operation.turnsDue_drain h (Entry.due_committed hl hs)]
      exact (CombineBuffer.due_of_set rfl).trans
        (congrArg _ (Entry.due_draining (x := s.buffer.entries[e].start) hl rfl))
    · next hs => exact (Operation.turnsDue_drain_of_ne h fun hd => hs (Entry.due_queued_iff.mp hd).2).symm
  · next hl =>
    refine (Operation.turnsDue_drain_of_ne h fun hd => ?_).symm
    have hnone : s.buffer.due e = [] := Entry.due_of_line hl
    simp [hnone] at hd

theorem State.startBitOp_board (i : BitIx) : (s.startBitOp i).board = s.board := by
  unfold State.startBitOp
  split <;> rfl

/-- What a dispatch starts changes the board in the drains that are due only. -/
theorem State.startWork_board (o : Operation) : (s.startWork o.work).board =
    { s.board with due := o.turnsDue [false] [true] s.buffer.due } := by
  cases h : o.work with
  | drain d e =>
    rw [← s.startDrain_due h]
    simp only [State.startWork, State.startDrain]
    split
    · split <;> rfl
    · rfl
  | bitop i =>
    rw [Operation.turnsDue_of_not_drain (by rw [h]; exact nofun)]
    exact s.startBitOp_board i
  | fill readers =>
    rw [Operation.turnsDue_of_not_drain (by rw [h]; exact nofun)]
    rfl
  | scrub =>
    rw [Operation.turnsDue_of_not_drain (by rw [h]; decide)]
    rfl

theorem State.takeOp_boardMoves {k : LaneIx} {i : Nat} (h : s.dispatchChoice = some (k, i)) :
    BoardMoves s.board (s.takeOp k i).board := by
  obtain ⟨hidle, o, ho⟩ := State.dispatchChoice_eligible h
  refine (BoardMove.takes (b := s.board) k i o (s.firstCommand o.work).waitStep ho hidle).moves ?_
  have hstart := (s.taking k i o).startWork_board o
  rw [State.takeOp_eq ho.1]
  obtain ⟨hdue, hops, hlanes⟩ := Board.mk.inj hstart
  simp only [State.board, State.handOver_buffer, State.handOver_opList, State.handOver_lanes, hdue, hops, hlanes]
  rfl

/-! ### The end of an operation (R35, R45, R58, R96) -/

theorem State.laneOp_spec {k : LaneIx} {o : Operation} (h : s.laneOp k = some o) :
    o ∈ s.opList.ops ∧ o.phase = .inFlight k := by
  have hp := List.find?_some (p := fun o : Operation => o.phase == Phase.inFlight k) h
  exact ⟨List.mem_of_find?_eq_some h, eq_of_beq hp⟩

/-- The lane's operation is removed, the entry it drained gets its result, and the lane is IDLE. -/
theorem State.finish_boardMoves {t : State} {k : LaneIx} {o : Operation} (h : s.laneOp k = some o)
    (ht : t.board = { (s.removeLaneOp k).board with due := o.turnsDue [true] [] s.buffer.due }) :
    BoardMoves s.board (t.setLane k .idle).board := by
  obtain ⟨hmem, hphase⟩ := s.laneOp_spec h
  obtain ⟨hdue, hops, hlanes⟩ := Board.mk.inj ht
  refine (BoardMove.finishes (b := s.board) k o hmem hphase).moves ?_
  rw [State.board, State.setLane_buffer, State.setLane_opList, State.setLane_lanes, hdue, hops, hlanes]
  rfl

/-- An operation that is no drain ends. -/
theorem State.finish_boardMoves_of_not_drain {t : State} {k : LaneIx} {o : Operation} (h : s.laneOp k = some o)
    (hw : o.work.arbClass ≠ .drain) (ht : t.board = (s.removeLaneOp k).board) :
    BoardMoves s.board (t.setLane k .idle).board := by
  refine s.finish_boardMoves h ?_
  rw [Operation.turnsDue_of_not_drain hw]
  exact ht

theorem State.goOn_boardMoves {k : LaneIx} {o : Operation} (h : s.laneOp k = some o) (L : Nat) (bytes : LineBytes)
    (f : Option FaultRecord) : BoardMoves s.board (s.goOn k L bytes f).board := by
  obtain ⟨hmem, hphase⟩ := s.laneOp_spec h
  unfold State.goOn
  split
  · exact (BoardMove.goesOn (b := s.board) k o .stopped hmem hphase).moves rfl
  · refine (BoardMove.goesOn (b := s.board) k o .writeWait hmem hphase).moves ?_
    rw [← s.logFault?_board f]
    rfl

/-- A drain whose entry is DRAINING, with a line, ends: the entry is replaced by one that is due no drain. -/
theorem State.endDrain_board {t : State} {k : LaneIx} {o : Operation} {d : DrainKind} {e : EntryIx} {L : Nat}
    {x : Entry} (hw : o.work = .drain d e) (hl : s.buffer.entries[e].line = some L)
    (hs : s.buffer.entries[e].state = .draining) (he : t.buffer.entries = s.buffer.entries.set e x) (hx : x.due = [])
    (ho : t.opList = (s.removeLaneOp k).opList) (hlanes : t.lanes = s.lanes) :
    t.board = { (s.removeLaneOp k).board with due := o.turnsDue [true] [] s.buffer.due } := by
  rw [Operation.turnsDue_drain hw (Entry.due_draining hl hs), State.board, CombineBuffer.due_of_set he, hx, ho, hlanes]
  rfl

/-- A drain whose entry is not DRAINING, or has no line, ends without a result. -/
theorem State.endDrain_board_of_not {k : LaneIx} {o : Operation} {d : DrainKind} {e : EntryIx}
    (hw : o.work = .drain d e) (h : s.buffer.entries[e].line = none ∨ s.buffer.entries[e].state ≠ .draining) :
    (s.removeLaneOp k).board = { (s.removeLaneOp k).board with due := o.turnsDue [true] [] s.buffer.due } := by
  rw [Operation.turnsDue_drain_of_ne hw fun hd => ?_]
  · rfl
  · obtain ⟨⟨L, hl⟩, hs⟩ := Entry.due_flying_iff.mp hd
    exact h.elim (fun hn => absurd (hl.symm.trans hn) nofun) fun hne => hne hs

theorem State.commitSuccessor_setLane (L : Nat) (k : LaneIx) (l : Lane) :
    (s.commitSuccessor L).setLane k l = (s.setLane k l).commitSuccessor L := by
  unfold State.commitSuccessor
  cases h : s.buffer.openEntry L with
  | none => simp only [State.setLane_buffer, h]
  | some f =>
    simp only [State.setLane_buffer, h]
    split
    · next hc => exact (if_pos hc).symm
    · next hc => exact (if_neg hc).symm

theorem State.drainSucceeds_boardMoves {k : LaneIx} {o : Operation} {d : DrainKind} {e : EntryIx}
    (h : s.laneOp k = some o) (hw : o.work = .drain d e) :
    BoardMoves s.board (((s.removeLaneOp k).drainSucceeds e).setLane k .idle).board := by
  unfold State.drainSucceeds
  dsimp only
  split
  · next hl => exact s.finish_boardMoves h (s.endDrain_board_of_not hw (.inl hl))
  · next L hl =>
    split
    · next hs =>
      rw [State.commitSuccessor_setLane]
      refine (s.finish_boardMoves h ?_).trans (State.commitSuccessor_boardMoves _ L)
      exact s.endDrain_board hw hl hs rfl (Entry.due_of_line rfl) rfl rfl
    · next hs => exact s.finish_boardMoves h (s.endDrain_board_of_not hw (.inr hs))

/-- What a failed drain reports leaves the board alone (R96, R97). -/
theorem State.reportHeld_board (e : EntryIx) (r : FaultRecord) :
    (((s.leaveWaitSets e).logFault r).raise .lineHeld).board = s.board := rfl

theorem State.drainFails_boardMoves {k : LaneIx} {o : Operation} {d : DrainKind} {e : EntryIx}
    (h : s.laneOp k = some o) (hw : o.work = .drain d e) (r : HeldReason) (op : OpKind × BitVec 16)
    (w : Option WordIx) : BoardMoves s.board (((s.removeLaneOp k).drainFails e r op w).setLane k .idle).board := by
  unfold State.drainFails
  dsimp only
  split
  · next hl => exact s.finish_boardMoves h (s.endDrain_board_of_not hw (.inl hl))
  · next L hl =>
    split
    · next hs =>
      refine s.finish_boardMoves h (((State.reportHeld_board _ e _).trans (State.fold_board _ e L)).trans ?_)
      exact s.endDrain_board (x := s.buffer.entries[e].hold r) hw hl hs rfl (Entry.due_held rfl) rfl rfl
    · next hs => exact s.finish_boardMoves h (s.endDrain_board_of_not hw (.inr hs))

theorem State.completeDrain_boardMoves {k : LaneIx} {o : Operation} {d : DrainKind} {e : EntryIx}
    (h : s.laneOp k = some o) (hw : o.work = .drain d e) (r : Option HeldReason) (w : Option WordIx) :
    BoardMoves s.board (s.completeDrain k o e r w).board := by
  cases r with
  | none => exact s.drainSucceeds_boardMoves h hw
  | some r => exact s.drainFails_boardMoves h hw r o.label w

theorem State.completeBitOp_boardMoves {k : LaneIx} {o : Operation} {i : BitIx} (h : s.laneOp k = some o)
    (hw : o.work = .bitop i) (st : RecordStatus) (d : List Byte) (f : Option FaultRecord) :
    BoardMoves s.board (s.completeBitOp k i st d f).board := by
  refine s.finish_boardMoves_of_not_drain h (by rw [hw]; exact nofun) ((State.logFault?_board _ f).trans ?_)
  split <;> rfl

end Boards

/-! ### Every change -/

/-- Operations that a removal drops are QUEUED and no drains. -/
theorem Operation.queued_of_haltRemoves {o : Operation} (h : (!o.haltRemoves) = false) :
    o.phase = .queued ∧ o.work.arbClass ≠ .drain := by
  simp only [Operation.haltRemoves, Bool.not_eq_false', Bool.and_eq_true, beq_iff_eq] at h
  exact ⟨h.1, by rw [h.2]; decide⟩

theorem Operation.queued_of_busResettable {o : Operation} (h : (!o.busResettable) = false) :
    o.phase = .queued ∧ o.work.arbClass ≠ .drain := by
  unfold Operation.busResettable at h
  split at h
  · next hw hp => exact ⟨hp, by rw [hw]; exact nofun⟩
  · next hw hp => exact ⟨hp, by rw [hw]; exact nofun⟩
  · exact absurd h (by decide)

theorem Operation.queued_of_isQueuedScrub {o : Operation} (h : (!o.isQueuedScrub) = false) :
    o.phase = .queued ∧ o.work.arbClass ≠ .drain := by
  simp only [Operation.isQueuedScrub, Operation.isScrub, Bool.not_eq_false', Bool.and_eq_true, beq_iff_eq] at h
  exact ⟨h.2, by rw [h.1]; decide⟩

/-- Every change is a chain of moves of the board. -/
theorem Change.boardMoves {s t : State} (h : Change s t) : BoardMoves s.board t.board := by
  cases h with
  | stores e L p bytes m _ _ _ _ =>
    exact .of_eq (State.board_of_due (CombineBuffer.due_of_set_same rfl (Entry.due_eq rfl rfl)) rfl rfl)
  | allocates e L p bytes m _ _ _ _ _ hf =>
    have hopened := Entry.due_opened (x := (Entry.opening L s.buffer.counter s.buffer.newTimer).store p bytes m) rfl
    have hfree := Entry.due_free (CombineBuffer.lowestFree_spec hf)
    exact .of_eq (State.board_of_due (CombineBuffer.due_of_set_same rfl (hopened.trans hfree.symm)) rfl rfl)
  | commits e L ho hl _ => exact s.commit_boardMoves ho hl
  | pends e _ | ages e _ _ =>
    exact .of_eq (State.board_of_due (CombineBuffer.due_of_set_same rfl (Entry.due_eq rfl rfl)) rfl rfl)
  | discards e hh => exact .of_eq (s.discard_board hh)
  | recommits e k hh _ => rw [State.backToQuiescing_board]; exact s.recommit_boardMoves k hh
  | takesRead r q _ _ => exact (s.setRead r _).attachFill_boardMoves r q.line
  | placesRead i _ => exact .of_eq (s.placeRead_board i)
  | takesBitOp i b _ _ _ => exact (BoardMove.queues (.bitop i) b.line s.opList.counter nofun nofun).moves rfl
  | placesBit i _ => exact .of_eq (s.placeBit_board i)
  | dispatches k i hd => exact s.takeOp_boardMoves hd
  | issues _ => exact .of_eq s.issue_board
  | goesOn k o L bytes f ho => exact s.goOn_boardMoves ho L bytes f
  | endsDrain k o d e r w ho hw => exact s.completeDrain_boardMoves ho hw r w
  | endsFill k o readers g f ho hw =>
    exact s.finish_boardMoves_of_not_drain ho (by rw [hw]; exact nofun)
      ((State.logFault?_board _ f).trans (State.answerReaders_board _ readers g))
  | endsBitOp k o i st d f ho hw => exact s.completeBitOp_boardMoves ho hw st d f
  | endsScrub k o f ho hw =>
    exact s.finish_boardMoves_of_not_drain ho (by rw [hw]; decide) (State.logFault?_board _ f)
  | starts _ => refine .of_eq ?_; split <;> rfl
  | halts c _ _ => exact (BoardMove.drops _ fun _ => Operation.queued_of_haltRemoves).moves rfl
  | resetsBus => exact (BoardMove.drops _ fun _ => Operation.queued_of_busResettable).moves rfl
  | stopsScrub => exact (BoardMove.drops _ fun _ => Operation.queued_of_isQueuedScrub).moves rfl
  | appendsScrub _ hl =>
    refine (BoardMove.queues (b := s.board) .scrub s.scrub.position s.opList.counter (by decide) fun _ => hl).moves ?_
    exact State.advanceScrub_board _
  | ticks => exact .of_eq s.runTimers_board
  | clears _ | powersOn =>
    refine BoardMove.empties.moves (congrArg (Board.mk · [] _) (funext fun e => ?_))
    simp [CombineBuffer.due, State.clear, State.powerOn, State.reset, Entry.due, Entry.free]
  | _ => exact .refl

/-- A law of the board that every move keeps, every step keeps. -/
theorem step_keeps_board {P : Board → Prop} (hm : ∀ b b', BoardMove b b' → P b → P b') {s t : State}
    (h : step s = .next t) (p : P s.board) : P t.board :=
  step_keeps (P := fun u => P u.board) (fun _ _ hc => hc.boardMoves.keeps hm) (fun _ _ hu => hu) h p

end Sys2Proof.Machine

/-! ## Every step keeps the laws of the operation list and the lanes (R46-R48, R126) -/

namespace Sys2Proof.Machine

/-! ### Lists of operations -/

/-- An eligible operation, the operations before it, none of its line, and those after it. -/
theorem Eligible.split {ops : List Operation} {i : Nat} {o : Operation} (h : Eligible ops i o) :
    ∃ pre post, ops = pre ++ o :: post ∧ (∀ p ∈ pre, p.line ≠ o.line) ∧ ∀ x, ops.set i x = pre ++ x :: post := by
  obtain ⟨hi, -, hline⟩ := h
  obtain ⟨hlt, hget⟩ := List.getElem?_eq_some_iff.mp hi
  refine ⟨ops.take i, ops.drop (i + 1), ?_, fun p hp => ?_, fun x => List.set_eq_take_cons_drop x hlt⟩
  · rw [← hget, List.cons_getElem_drop_succ, List.take_append_drop]
  · obtain ⟨j, hj, hp⟩ := mem_take_iff.mp hp
    exact hline j p hj hp

/-- A test that does not look at readers lists passes as many operations when the lists differ in those only. -/
theorem map_filter_of_bare {α : Type} {p : Operation → Bool} {f : Operation → α} (hp : ∀ o, p o.bare = p o)
    (hf : ∀ o, f o.bare = f o) {ops ops' : List Operation} (h : ops'.map Operation.bare = ops.map Operation.bare) :
    (ops'.filter p).map f = (ops.filter p).map f := by
  have hbare (l : List Operation) : (l.filter p).map f = ((l.map Operation.bare).filter p).map f := by
    simp [List.filter_map, Function.comp_def, hp, hf]
  rw [hbare, h, ← hbare]

theorem length_filter_of_bare {p : Operation → Bool} (hp : ∀ o, p o.bare = p o) {ops ops' : List Operation}
    (h : ops'.map Operation.bare = ops.map Operation.bare) : (ops'.filter p).length = (ops.filter p).length := by
  simpa using congrArg List.length (map_filter_of_bare (f := fun _ => ()) hp (fun _ => rfl) h)

/-- An operation replaced by one that a test answers the same. -/
theorem length_filter_replace {p : Operation → Bool} {o o' : Operation} (h : p o' = p o) (pre post : List Operation) :
    ((pre ++ o' :: post).filter p).length = ((pre ++ o :: post).filter p).length := by
  simp only [List.filter_append, List.filter_cons, h, List.length_append]
  split <;> rfl

theorem Operation.isScrub_bare (o : Operation) : o.bare.isScrub = o.isScrub := by
  obtain ⟨work, line, order, phase⟩ := o
  cases work <;> rfl

theorem Operation.drains_bare (e : EntryIx) (o : Operation) : o.bare.drains e = o.drains e := by
  obtain ⟨work, line, order, phase⟩ := o
  cases work <;> rfl

theorem eq_singleton_of_mem {l : List Operation} {o : Operation} (hl : l.length ≤ 1) (ho : o ∈ l) : l = [o] := by
  obtain ⟨p, rfl⟩ := List.length_eq_one_iff.mp (le_antisymm hl (List.length_pos_of_mem ho))
  rw [List.mem_singleton.mp ho]

/-! ### R46, R126: one operation of a line IN-FLIGHT, one SCRUB -/

/-- Operation `b`, listed after `a`, waits behind it when the two are of one line (R46). -/
def WaitsBehind (a b : Operation) : Prop := a.line = b.line → b.phase = .queued

theorem OperationList.lineLock_iff {l : OperationList} : l.lineLock ↔ l.ops.Pairwise WaitsBehind := by
  rw [List.pairwise_iff_getElem]
  constructor
  · intro h i j hi hj hij
    exact h i j _ _ (List.getElem?_eq_getElem hi) (List.getElem?_eq_getElem hj) hij
  · intro h i j a b ha hb hij
    obtain ⟨hi, rfl⟩ := List.getElem?_eq_some_iff.mp ha
    obtain ⟨hj, rfl⟩ := List.getElem?_eq_some_iff.mp hb
    exact h i j hi hj hij

/-- R46 and R126 as laws of the board. -/
def Board.lockLaw (b : Board) : Prop := b.ops.Pairwise WaitsBehind ∧ (b.ops.filter Operation.isScrub).length ≤ 1

theorem State.lockLaw_iff {s : State} : s.opList.lineLock ∧ s.scrubLaw ↔ s.board.lockLaw :=
  and_congr_left' OperationList.lineLock_iff

/-- An operation appended QUEUED waits behind every other. -/
theorem waitsBehind_append {ops : List Operation} {o : Operation} (ho : o.phase = .queued)
    (h : ops.Pairwise WaitsBehind) : (ops ++ [o]).Pairwise WaitsBehind := by
  refine List.pairwise_append.mpr ⟨h, List.pairwise_singleton _ _, fun a _ b hb _ => ?_⟩
  rw [List.mem_singleton.mp hb, ho]

/-- An operation with none of its line before it may become IN-FLIGHT. -/
theorem waitsBehind_take {pre post : List Operation} {o : Operation} (k : LaneIx) (hpre : ∀ p ∈ pre, p.line ≠ o.line)
    (h : (pre ++ o :: post).Pairwise WaitsBehind) :
    (pre ++ { o with phase := .inFlight k } :: post).Pairwise WaitsBehind := by
  rw [List.pairwise_append, List.pairwise_cons] at h ⊢
  obtain ⟨hp, ⟨ho, hpost⟩, hcross⟩ := h
  refine ⟨hp, ⟨ho, hpost⟩, fun a ha b hb => ?_⟩
  rcases List.mem_cons.mp hb with rfl | hb
  · exact fun hl => absurd hl (hpre a ha)
  · exact hcross a ha b (List.mem_cons_of_mem o hb)

theorem BoardMove.lockLaw {b b' : Board} (hm : BoardMove b b') (h : b.lockLaw) : b'.lockLaw := by
  obtain ⟨hlock, hscrub⟩ := h
  cases hm with
  | commits e d L n _ =>
    refine ⟨waitsBehind_append rfl hlock, ?_⟩
    simpa [List.filter_append, Operation.isScrub] using hscrub
  | queues w L n _ hone =>
    refine ⟨waitsBehind_append rfl hlock, ?_⟩
    by_cases hw : w = .scrub
    · have hnone : b.ops.filter Operation.isScrub = [] := List.filter_eq_nil_iff.mpr (by simpa using hone hw)
      rw [List.filter_append, hnone, List.nil_append]
      exact List.length_filter_le _ _
    · simpa [List.filter_append, Operation.isScrub, hw] using hscrub
  | joins ops hops =>
    refine ⟨?_, (length_filter_of_bare Operation.isScrub_bare hops).trans_le hscrub⟩
    have hbare : (ops.map Operation.bare).Pairwise WaitsBehind := hops ▸ List.pairwise_map.mpr hlock
    exact (List.pairwise_map (f := Operation.bare)).mp hbare
  | drops p _ | finishes k o _ _ =>
    exact ⟨hlock.filter _, (List.filter_sublist.filter _).length_le.trans hscrub⟩
  | takes k i o st ho _ =>
    obtain ⟨pre, post, hops, hpre, hset⟩ := ho.split
    rw [hops] at hlock hscrub
    refine ⟨(hset _).symm ▸ waitsBehind_take k hpre hlock, ?_⟩
    rw [hset]
    exact (length_filter_replace (o := o) (o' := { o with phase := .inFlight k }) rfl pre post).trans_le hscrub
  | goesOn k o st _ _ => exact ⟨hlock, hscrub⟩
  | empties => exact ⟨.nil, Nat.zero_le _⟩

/-- Settles O9: each move of the board keeps R46's and R126's law, so every step does. -/
theorem oneOperationPerLineInFlight : Obligations.OneOperationPerLineInFlight := fun _ _ h hs =>
  State.lockLaw_iff.mpr (step_keeps_board (fun _ _ hm => hm.lockLaw) hs (State.lockLaw_iff.mp h))

/-! ### R47, R48: the drains of the entries, and the operations of the lanes -/

/-- The drains listed for entry `e`, each IN-FLIGHT or not. -/
def drainsListed (ops : List Operation) (e : EntryIx) : List Bool := (ops.filter (·.drains e)).map (·.flying)

/-- The number of operations that lane `k` carries. -/
def laneLoad (ops : List Operation) (k : LaneIx) : Nat := (ops.filter fun o => o.phase == .inFlight k).length

/-- R47 as a law of the board: each entry has the drains it is due, of which there is at most one. -/
def Board.drainLaw (b : Board) : Prop := ∀ e : EntryIx, drainsListed b.ops e = b.due e ∧ (b.due e).length ≤ 1

/-- R48 as a law of the board: a BUSY lane carries one operation, an IDLE lane none. -/
def Board.laneLaw (b : Board) : Prop := ∀ k : LaneIx, laneLoad b.ops k = if b.lanes[k] = .idle then 0 else 1

theorem drainsListed_append (l l' : List Operation) (e : EntryIx) :
    drainsListed (l ++ l') e = drainsListed l e ++ drainsListed l' e := by
  simp [drainsListed]

theorem laneLoad_append (l l' : List Operation) (k : LaneIx) :
    laneLoad (l ++ l') k = laneLoad l k + laneLoad l' k := by
  simp [laneLoad]

theorem drainsListed_cons (o : Operation) (l : List Operation) (e : EntryIx) :
    drainsListed (o :: l) e = if o.drains e = true then o.flying :: drainsListed l e else drainsListed l e := by
  simp only [drainsListed, List.filter_cons]
  split <;> rfl

theorem laneLoad_cons (o : Operation) (l : List Operation) (k : LaneIx) :
    laneLoad (o :: l) k = laneLoad l k + if o.phase = .inFlight k then 1 else 0 := by
  simp only [laneLoad, List.filter_cons, beq_iff_eq]
  split <;> rfl

theorem Operation.drains_of_not_drain {o : Operation} (h : o.work.arbClass ≠ .drain) (e : EntryIx) :
    o.drains e = false := by
  obtain ⟨work, line, order, phase⟩ := o
  cases work with
  | drain d f => exact absurd rfl h
  | fill _ | bitop _ | scrub => rfl

/-- An entry whose line and state agree is due what its state says. -/
theorem Entry.law.due_eq {x : Entry} (h : x.law) : x.due =
    match x.state with
    | .committed => [false]
    | .draining => [true]
    | .free | .opened | .held => [] := by
  obtain ⟨hline, -, -, -⟩ := h
  unfold Entry.due
  cases hl : x.line with
  | none => rw [hline.mp hl]
  | some L => cases x.state <;> rfl

theorem State.drainLaw_iff {s : State} (h : s.buffer.entryLaw) : s.drainLaw ↔ s.board.drainLaw := by
  refine forall_congr' fun e => ?_
  have hdue : s.board.due e = _ := (CombineBuffer.entryLaw_iff.mp h e).due_eq
  rw [hdue]
  cases s.buffer.entries[e].state <;> simp [drainsListed, State.board]

section Moves
variable {b : Board} (hd : b.drainLaw) (hl : b.laneLaw)
include hd

theorem Board.drainLaw_commit {e : EntryIx} (d : DrainKind) (L : Nat) (n : BitVec 16) (he : b.due e = []) :
    Board.drainLaw { b with
      due := Function.update b.due e [false]
      ops := b.ops ++ [⟨.drain d e, L, n, .queued⟩] } := by
  intro j
  obtain ⟨hj, hlen⟩ := hd j
  have hdrains : (⟨.drain d e, L, n, .queued⟩ : Operation).drains j = true ↔ e = j := Operation.drains_of (d := d) rfl j
  simp only [drainsListed_append, drainsListed_cons, hj, hdrains, Function.update_apply]
  by_cases hje : j = e
  · subst hje
    simp [he, drainsListed, Operation.flying]
  · simp [hje, Ne.symm hje, drainsListed, hlen]

theorem Board.drainLaw_queue {w : Work} (L : Nat) (n : BitVec 16) (hw : w.arbClass ≠ .drain) :
    Board.drainLaw { b with ops := b.ops ++ [⟨w, L, n, .queued⟩] } := by
  intro j
  have hnot : (⟨w, L, n, .queued⟩ : Operation).drains j = false := Operation.drains_of_not_drain hw j
  rw [drainsListed_append, drainsListed_cons, hnot]
  simpa [drainsListed] using hd j

theorem Board.drainLaw_filter {p : Operation → Bool} (hp : ∀ o, p o = false → o.work.arbClass ≠ .drain) :
    Board.drainLaw { b with ops := b.ops.filter p } := by
  intro j
  have hkeep : (b.ops.filter p).filter (·.drains j) = b.ops.filter (·.drains j) := by
    rw [List.filter_filter]
    refine List.filter_congr fun o _ => ?_
    cases hpo : p o with
    | true => rw [Bool.and_true]
    | false => rw [Operation.drains_of_not_drain (hp o hpo), Bool.and_false]
  rw [drainsListed, hkeep]
  exact hd j

/-- A QUEUED operation becomes IN-FLIGHT, and with it the drain its entry is due. -/
theorem Board.drainLaw_take {pre post : List Operation} {o : Operation} {k : LaneIx} {l : Vector Lane 4}
    (hops : b.ops = pre ++ o :: post) (ho : o.phase = .queued) :
    Board.drainLaw ⟨o.turnsDue [false] [true] b.due, pre ++ { o with phase := .inFlight k } :: post, l⟩ := by
  intro j
  obtain ⟨hj, hlen⟩ := hd j
  rw [hops, drainsListed_append, drainsListed_cons] at hj
  have hfly : o.flying = false := by simp [Operation.flying, ho]
  have hsame : ({ o with phase := .inFlight k } : Operation).drains j = o.drains j := rfl
  dsimp only [Operation.turnsDue]
  rw [drainsListed_append, drainsListed_cons, hsame]
  by_cases hoj : o.drains j = true
  · rw [if_pos hoj, hfly] at hj
    rw [← hj, List.length_append, List.length_cons] at hlen
    have hpre : drainsListed pre j = [] := List.length_eq_zero_iff.mp (by omega)
    have hpost : drainsListed post j = [] := List.length_eq_zero_iff.mp (by omega)
    rw [hpre, hpost] at hj
    simp [hoj, hpre, hpost, ← hj, Operation.flying]
  · rw [if_neg hoj] at hj ⊢
    rw [if_neg fun h => hoj h.1]
    exact ⟨hj, hlen⟩

/-- The one operation that lane `k` carries ends, and with it the drain its entry is due. -/
theorem Board.drainLaw_finish {o : Operation} {k : LaneIx} {l : Vector Lane 4}
    (hmem : o ∈ b.ops) (ho : o.phase = .inFlight k) (hone : ∀ p ∈ b.ops, p.phase = .inFlight k → p = o) :
    Board.drainLaw ⟨o.turnsDue [true] [] b.due, b.ops.filter fun p => p.phase != .inFlight k, l⟩ := by
  intro j
  obtain ⟨hj, hlen⟩ := hd j
  have hswap : (b.ops.filter fun p => p.phase != .inFlight k).filter (·.drains j) =
      (b.ops.filter (·.drains j)).filter fun p => p.phase != .inFlight k := by
    simp only [List.filter_filter, Bool.and_comm]
  dsimp only [Operation.turnsDue]
  rw [drainsListed, hswap]
  by_cases hoj : o.drains j = true
  · have hself : b.ops.filter (·.drains j) = [o] := by
      refine eq_singleton_of_mem ?_ (List.mem_filter.mpr ⟨hmem, hoj⟩)
      rwa [← hj, drainsListed, List.length_map] at hlen
    have hdue : b.due j = [true] := by rw [← hj, drainsListed, hself]; simp [Operation.flying, ho]
    rw [if_pos ⟨hoj, hdue⟩, hself]
    simp [ho]
  · rw [if_neg fun h => hoj h.1, List.filter_eq_self.mpr fun p hp => ?_]
    · exact ⟨hj, hlen⟩
    · obtain ⟨hp, hpj⟩ := List.mem_filter.mp hp
      exact bne_iff_ne.mpr fun hk => hoj (hone p hp hk ▸ hpj)

omit hd
include hl

/-- The operation of a lane is the only one the lane carries (R48). -/
theorem Board.laneLaw.only {o : Operation} {k : LaneIx} (hmem : o ∈ b.ops) (ho : o.phase = .inFlight k) :
    b.lanes[k] ≠ .idle ∧ ∀ p ∈ b.ops, p.phase = .inFlight k → p = o := by
  have hin : o ∈ b.ops.filter fun p => p.phase == .inFlight k := List.mem_filter.mpr ⟨hmem, beq_iff_eq.mpr ho⟩
  have hpos : 0 < laneLoad b.ops k := List.length_pos_of_mem hin
  have hk := hl k
  have hbusy : b.lanes[k] ≠ .idle := fun hidle => by rw [if_pos hidle] at hk; omega
  rw [if_neg hbusy] at hk
  refine ⟨hbusy, fun p hp hpk => ?_⟩
  have hpin : p ∈ b.ops.filter fun p => p.phase == .inFlight k := List.mem_filter.mpr ⟨hp, beq_iff_eq.mpr hpk⟩
  rw [eq_singleton_of_mem hk.le hin] at hpin
  exact List.mem_singleton.mp hpin

theorem Board.laneLaw_queue (due : EntryIx → List Bool) (w : Work) (L : Nat) (n : BitVec 16) :
    Board.laneLaw ⟨due, b.ops ++ [⟨w, L, n, .queued⟩], b.lanes⟩ := by
  intro j
  rw [laneLoad_append, hl j]
  rfl

theorem Board.laneLaw_filter {p : Operation → Bool} (hp : ∀ o, p o = false → o.phase = .queued) :
    Board.laneLaw { b with ops := b.ops.filter p } := by
  intro j
  have hkeep : (b.ops.filter p).filter (fun o => o.phase == .inFlight j) =
      b.ops.filter fun o => o.phase == .inFlight j := by
    rw [List.filter_filter]
    refine List.filter_congr fun o _ => ?_
    cases hpo : p o with
    | true => rw [Bool.and_true]
    | false => rw [hp o hpo]; rfl
  rw [laneLoad, hkeep]
  exact hl j

theorem Board.laneLaw_take {pre post : List Operation} {o : Operation} {k : LaneIx} {due : EntryIx → List Bool}
    {st : LaneStep} (hops : b.ops = pre ++ o :: post) (ho : o.phase = .queued) (hk : b.lanes[k] = .idle) :
    Board.laneLaw ⟨due, pre ++ { o with phase := .inFlight k } :: post, b.lanes.set k (.busy st)⟩ := by
  intro j
  have hj := hl j
  rw [hops, laneLoad_append, laneLoad_cons, ho, if_neg nofun] at hj
  rw [laneLoad_append, laneLoad_cons, getElem_set_fin]
  by_cases hkj : k = j
  · subst hkj
    rw [if_pos hk] at hj
    rw [if_pos rfl, if_pos rfl, if_neg nofun]
    omega
  · rw [if_neg hkj, if_neg (by simpa using hkj)]
    exact hj

theorem Board.laneLaw_goOn {o : Operation} {k : LaneIx} (st : LaneStep) (hmem : o ∈ b.ops)
    (ho : o.phase = .inFlight k) : Board.laneLaw { b with lanes := b.lanes.set k (.busy st) } := by
  intro j
  rw [getElem_set_fin]
  split
  · next hkj =>
    rw [if_neg nofun, ← hkj]
    exact (hl k).trans (if_neg (Board.laneLaw.only hl hmem ho).1)
  · exact hl j

theorem Board.laneLaw_finish (k : LaneIx) (due : EntryIx → List Bool) :
    Board.laneLaw ⟨due, b.ops.filter fun p => p.phase != .inFlight k, b.lanes.set k .idle⟩ := by
  intro j
  rw [laneLoad, List.filter_filter, getElem_set_fin]
  by_cases hkj : k = j
  · subst hkj
    simp
  · rw [if_neg hkj, ← hl j, laneLoad]
    refine congrArg List.length (List.filter_congr fun o _ => ?_)
    by_cases hoj : o.phase = .inFlight j
    · simp [hoj, Ne.symm hkj]
    · simp [hoj]

end Moves

theorem BoardMove.drainLaw {b b' : Board} (hm : BoardMove b b') (h : b.drainLaw ∧ b.laneLaw) :
    b'.drainLaw ∧ b'.laneLaw := by
  obtain ⟨hd, hl⟩ := h
  cases hm with
  | commits e d L n he => exact ⟨Board.drainLaw_commit hd d L n he, Board.laneLaw_queue hl _ _ L n⟩
  | queues w L n hw _ => exact ⟨Board.drainLaw_queue hd L n hw, Board.laneLaw_queue hl _ w L n⟩
  | joins ops hops =>
    refine ⟨fun j => ?_, fun j => (length_filter_of_bare (fun _ => rfl) hops).trans (hl j)⟩
    rw [drainsListed, map_filter_of_bare (Operation.drains_bare j) (fun _ => rfl) hops]
    exact hd j
  | drops p hp =>
    exact ⟨Board.drainLaw_filter hd fun o h => (hp o h).2, Board.laneLaw_filter hl fun o h => (hp o h).1⟩
  | takes k i o st ho hk =>
    obtain ⟨pre, post, hops, -, hset⟩ := ho.split
    rw [hset]
    exact ⟨Board.drainLaw_take hd hops ho.2.1, Board.laneLaw_take hl hops ho.2.1 hk⟩
  | goesOn k o st hmem ho => exact ⟨hd, Board.laneLaw_goOn hl st hmem ho⟩
  | finishes k o hmem ho =>
    exact ⟨Board.drainLaw_finish hd hmem ho (Board.laneLaw.only hl hmem ho).2, Board.laneLaw_finish hl k _⟩
  | empties => exact ⟨fun _ => ⟨rfl, Nat.zero_le _⟩, fun k => by simp [laneLoad]⟩

/-- Settles O10: each move of the board keeps R47's and R48's law, and each move of the buffer R16's and R17's. -/
theorem drainsMatchTheEntries : Obligations.DrainsMatchTheEntries := by
  rintro s t ⟨hd, hl, he⟩ hs
  have he' : t.buffer.entryLaw := step_keeps_buffer (fun _ _ hm => hm.entryLaw) hs he
  obtain ⟨hd', hl'⟩ : t.board.drainLaw ∧ t.board.laneLaw :=
    step_keeps_board (fun _ _ hm => hm.drainLaw) hs ⟨(State.drainLaw_iff he).mp hd, hl⟩
  exact ⟨(State.drainLaw_iff he').mpr hd', hl', he'⟩

end Sys2Proof.Machine

/-! ## An event comes to its end: each step it brings about leaves less to do (R49, R108, R138, R145, R156, R160) -/

namespace Sys2Proof.Machine

/-! ### Counting -/

theorem countFin_le (n : Nat) (p : Fin n → Bool) : countFin n p ≤ n :=
  (List.length_filter_le _ _).trans_eq (List.length_finRange)

theorem countFin_mono {n : Nat} {p q : Fin n → Bool} (h : ∀ i, p i = true → q i = true) :
    countFin n p ≤ countFin n q :=
  (List.monotone_filter_right (List.finRange n) h).length_le

theorem countFin_lt {n : Nat} {p q : Fin n → Bool} (h : ∀ i, p i = true → q i = true) {i : Fin n} (hq : q i = true)
    (hp : p i = false) : countFin n p < countFin n q := by
  have hsub := List.monotone_filter_right (List.finRange n) h
  refine Nat.lt_of_not_le fun hle => ?_
  have hmem : i ∈ (List.finRange n).filter q := List.mem_filter.mpr ⟨List.mem_finRange i, hq⟩
  rw [← hsub.eq_of_length_le hle] at hmem
  exact Bool.false_ne_true (hp.symm.trans (List.mem_filter.mp hmem).2)

/-- A count over places of which one was replaced by something that is not counted, or that was counted before too. -/
theorem countFin_set_le {α : Type} {n : Nat} {v : Vector α n} {c : α → Bool} {i : Fin n} {x : α}
    (h : c x = true → c v[i] = true) : countFin n (fun j => c (v.set i x)[j]) ≤ countFin n fun j => c v[j] := by
  refine countFin_mono fun j hj => ?_
  rw [getElem_set_fin] at hj
  split at hj
  · next hij => exact hij ▸ h hj
  · exact hj

/-- A count of which one place is no longer counted. -/
theorem countFin_set_lt {α : Type} {n : Nat} {v : Vector α n} {c : α → Bool} {i : Fin n} {x : α}
    (hx : c x = false) (hi : c v[i] = true) :
    countFin n (fun j => c (v.set i x)[j]) < countFin n fun j => c v[j] := by
  refine countFin_lt (fun j hj => ?_) hi ?_
  · rw [getElem_set_fin] at hj
    split at hj
    · exact absurd (hx.symm.trans hj) Bool.false_ne_true
    · exact hj
  · rw [getElem_set_fin, if_pos rfl, hx]

/-! ### What is left to do -/

/-- A read record whose response waits for a slot (R70). -/
def ReadRec.isReady : ReadRec → Bool
  | .ready _ _ _ => true
  | _ => false

/-- A bit operation record whose response waits for a slot (R84). -/
def BitRec.isReady : BitRec → Bool
  | .ready _ _ _ => true
  | _ => false

/-- Responses to place and lanes to give work to: the READY records, the finished barriers, the IDLE lanes. -/
def State.unserved (s : State) : Nat :=
  countFin 8 (fun i => s.reads[i].isReady) + countFin 4 (fun i => s.bitops[i].isReady) +
    countFin 8 (fun m => s.masters[m].finished) + countFin 4 fun k => s.lanes[k] == .idle

/-- The weight of the transition that the state controller makes by itself in a bridge state. The clearing step makes
every lane IDLE, and so outweighs all the records and lanes. -/
def BridgeState.weight : BridgeState → Nat
  | .quiescing => 2
  | .restarting => 64
  | .config | .run | .quiesced | .halted => 0

/-- The weight of an issue and of a transition of the bridge state. -/
def State.transitions (s : State) : Nat := (if s.port.condition = .idle then 2 else 0) + s.control.bridge.weight

/-- What an event may still bring about. A step weighs 2, as it can make an offer of the head due, which weighs 1. -/
def State.toDo (s : State) : Nat :=
  2 * (s.unserved + s.upstream.intake.length) + (if s.offerIsDue then 1 else 0) + s.transitions

theorem State.unserved_le (s : State) : s.unserved ≤ 24 := by
  have hr := countFin_le 8 fun i => s.reads[i].isReady
  have hb := countFin_le 4 fun i => s.bitops[i].isReady
  have hm := countFin_le 8 fun m => s.masters[m].finished
  have hl := countFin_le 4 fun k => s.lanes[k] == .idle
  unfold State.unserved
  omega

theorem State.toDo_le {s : State} (h : s.upstream.intake.length ≤ 8) : s.toDo ≤ 131 := by
  have hu := s.unserved_le
  have ht : s.transitions ≤ 66 := by
    unfold State.transitions
    cases s.control.bridge <;> split <;> decide
  unfold State.toDo
  split <;> omega

/-! ### The steps that serve no request of the intake -/

/-- A step from `s` to `t` that leaves the intake alone and adds nothing to do but an offer of the head. -/
def AddsNothing (s t : State) : Prop :=
  t.unserved ≤ s.unserved ∧ t.transitions = s.transitions ∧ t.upstream.intake = s.upstream.intake

theorem AddsNothing.refl (s : State) : AddsNothing s s := ⟨le_rfl, rfl, rfl⟩

theorem AddsNothing.trans {s t u : State} (h : AddsNothing s t) (g : AddsNothing t u) : AddsNothing s u := by
  obtain ⟨hu, ht, hi⟩ := h
  obtain ⟨gu, gt, gi⟩ := g
  exact ⟨gu.trans hu, gt.trans ht, gi.trans hi⟩

/-- A step after which less is unserved. -/
theorem State.toDo_lt_of_unserved {s t : State} (hu : t.unserved < s.unserved) (ht : t.transitions = s.transitions)
    (hi : t.upstream.intake = s.upstream.intake) : t.toDo < s.toDo := by
  unfold State.toDo
  rw [ht, hi]
  split <;> split <;> omega

theorem State.toDo_placeRead {s : State} {i : ReadIx} (h : s.readyRead = some i) : (s.placeRead i).toDo < s.toDo := by
  obtain ⟨r, st, d, hr⟩ := State.readyRead_ready h
  have hcount := countFin_set_lt (v := s.reads) (c := ReadRec.isReady) (x := .free) (i := i) rfl (by rw [hr]; rfl)
  have hplace : s.placeRead i = ((s.placeResponse (.data r.master r.tag st d)).setRead i .free).wake .readFreed := by
    simp only [State.placeRead, hr]
  rw [hplace]
  refine State.toDo_lt_of_unserved ?_ rfl rfl
  exact Nat.add_lt_add_right (Nat.add_lt_add_right (Nat.add_lt_add_right hcount _) _) _

theorem State.toDo_placeBit {s : State} {i : BitIx} (h : s.readyBit = some i) : (s.placeBit i).toDo < s.toDo := by
  obtain ⟨r, st, d, hr⟩ := State.readyBit_ready h
  have hcount := countFin_set_lt (v := s.bitops) (c := BitRec.isReady) (x := .free) (i := i) rfl (by rw [hr]; rfl)
  have hplace : s.placeBit i = ((s.placeResponse (.oldData r.master r.tag st d)).setBit i .free).wake .bitFreed := by
    simp only [State.placeBit, hr]
  rw [hplace]
  refine State.toDo_lt_of_unserved ?_ rfl rfl
  exact Nat.add_lt_add_right (Nat.add_lt_add_right (Nat.add_lt_add_left hcount _) _) _

theorem State.toDo_placeBarrier {s : State} {m : MasterIx} (h : s.finishedBarrier = some m) :
    (s.placeBarrier m).toDo < s.toDo := by
  obtain ⟨b, hb, -⟩ := State.finishedBarrier_finished h
  have hcount := countFin_set_lt (v := s.masters) (c := MasterCtx.finished)
    (x := { s.masters[m] with barrier := none, deferred := none }) (i := m) rfl (lowestFin_some.mp h).1
  have hplace : s.placeBarrier m = s.answerBarrier m b.tag := by
    simp only [State.placeBarrier, hb]
  rw [hplace]
  refine State.toDo_lt_of_unserved ?_ rfl rfl
  exact Nat.add_lt_add_right (Nat.add_lt_add_left hcount _) _

theorem State.setBit_addsNothing {s : State} {i : BitIx} {x : BitRec}
    (h : x.isReady = true → s.bitops[i].isReady = true) : AddsNothing s (s.setBit i x) :=
  ⟨Nat.add_le_add_right (Nat.add_le_add_right (Nat.add_le_add_left (countFin_set_le h) _) _) _, rfl, rfl⟩

theorem State.startWork_addsNothing (s : State) (w : Work) : AddsNothing s (s.startWork w) := by
  cases w with
  | drain d e =>
    simp only [State.startWork, State.startDrain]
    split
    · split
      · exact .refl s
      · exact .refl s
    · exact .refl s
  | bitop i =>
    simp only [State.startWork, State.startBitOp]
    split
    · exact State.setBit_addsNothing nofun
    · exact .refl s
  | fill readers => exact .refl s
  | scrub => exact .refl s

/-- A lane that was IDLE gets a command. -/
theorem State.unserved_handOver {s : State} {k : LaneIx} (h : s.lanes[k] = .idle) (c : ArrayCmd) (L : Nat) :
    (s.handOver k c L).unserved < s.unserved := by
  have hcount := countFin_set_lt (v := s.lanes) (c := (· == .idle)) (x := .busy c.waitStep) (i := k) rfl
    (beq_iff_eq.mpr h)
  exact Nat.add_lt_add_left hcount _

theorem State.toDo_dispatch {s : State} (h : s.dispatchChoice.isSome = true) : s.dispatch.toDo < s.toDo := by
  obtain ⟨⟨k, i⟩, hk⟩ := Option.isSome_iff_exists.mp h
  obtain ⟨hidle, o, ho⟩ := State.dispatchChoice_eligible hk
  have hdispatch : s.dispatch = s.takeOp k i := by simp only [State.dispatch, hk]
  rw [hdispatch, State.takeOp_eq ho.1]
  obtain ⟨hu, ht, hi⟩ := (s.taking k i o).startWork_addsNothing o.work
  have hlanes : ((s.taking k i o).startWork o.work).lanes = s.lanes :=
    congrArg Board.lanes ((s.taking k i o).startWork_board o)
  exact State.toDo_lt_of_unserved ((State.unserved_handOver (hlanes ▸ hidle) _ _).trans_le hu) ht hi

theorem State.toDo_issue {s : State} (h : s.issueDue = true) : s.issue.toDo < s.toDo := by
  simp only [State.issueDue, Bool.and_eq_true, beq_iff_eq] at h
  obtain ⟨⟨hidle, hqueue⟩, -⟩ := h
  unfold State.issue
  split
  · next hq => simp [hq] at hqueue
  · next q qs hq =>
    refine Nat.add_lt_add_left ?_ _
    simp only [State.transitions, hidle, State.setPort]
    simp

theorem State.toDo_enterQuiesced {s : State} (h : s.quiesceDue = true) : s.enterQuiesced.toDo < s.toDo := by
  simp only [State.quiesceDue, Bool.and_eq_true, beq_iff_eq] at h
  have hu : s.enterQuiesced.unserved = s.unserved := rfl
  have hi : s.enterQuiesced.upstream = s.upstream := rfl
  have ht : s.enterQuiesced.transitions + 2 = s.transitions := by
    rw [State.transitions, State.transitions, h.1]
    rfl
  unfold State.toDo
  rw [hu, hi, ← ht]
  split <;> split <;> omega

theorem State.toDo_clear {s : State} (h : s.clearDue = true) : s.clear.toDo < s.toDo := by
  simp only [State.clearDue, Bool.and_eq_true, beq_iff_eq] at h
  have hu := s.clear.unserved_le
  have hi : s.clear.upstream.intake.length = 0 := rfl
  have ht : s.clear.transitions = 2 := congrArg (· + 0) (if_pos h.2)
  have ht' : s.transitions = 66 := by rw [State.transitions, if_pos h.2, h.1]; rfl
  unfold State.toDo
  rw [hi]
  split <;> split <;> omega

/-! ### The offer of the head -/

/-- An offer from `s` to `t`: the head leaves the intake, or waits and is due no further offer. -/
def Offered (s t : State) : Prop :=
  t.unserved ≤ s.unserved ∧ t.transitions = s.transitions ∧
    (t.upstream.intake.length < s.upstream.intake.length ∨
      (t.upstream.intake = s.upstream.intake ∧ t.offerIsDue = false))

theorem Offered.toDo_lt {s t : State} (h : Offered s t) (hd : s.offerIsDue = true) : t.toDo < s.toDo := by
  obtain ⟨hu, ht, hi⟩ := h
  unfold State.toDo
  rw [ht, hd]
  rcases hi with hi | ⟨hi, hno⟩
  · split <;> simp only [if_true] <;> omega
  · rw [hi, hno, if_neg Bool.false_ne_true, if_pos rfl]
    omega

section Offers
variable {s t : State}

theorem AddsNothing.popHead (h : AddsNothing s t) (hne : s.upstream.intake ≠ []) : Offered s t.popHead := by
  obtain ⟨hu, ht, hi⟩ := h
  refine ⟨hu, ht, .inl ?_⟩
  have hlen : t.popHead.upstream.intake.length = t.upstream.intake.length - 1 := List.length_tail
  have hpos := List.length_pos_iff.mpr hne
  rw [hlen, hi]
  omega

/-- The head waits for a slot that is not there, or for something else than a slot. -/
theorem AddsNothing.headWaits (h : AddsNothing s t) {w : HeadWait} (hw : t.slotAvailable = false ∨ w.forSlot = false) :
    Offered s (t.headWaits w) := by
  obtain ⟨hu, ht, hi⟩ := h
  refine ⟨hu, ht, .inr ⟨hi, ?_⟩⟩
  have hslot : (w.forSlot && t.slotAvailable) = false := by
    rcases hw with h | h <;> simp [h]
  have hdue : (t.headWaits w).offerIsDue =
      (t.examinable && !t.upstream.intake.isEmpty && (false || (w.forSlot && t.slotAvailable))) := rfl
  rw [hdue, hslot, Bool.or_false, Bool.and_false]

theorem State.updateMaster_addsNothing {m : MasterIx} {f : MasterCtx → MasterCtx}
    (h : (f s.masters[m]).finished = true → s.masters[m].finished = true) : AddsNothing s (s.updateMaster m f) :=
  ⟨Nat.add_le_add_right (Nat.add_le_add_left (countFin_set_le h) _) _, rfl, rfl⟩

theorem State.addTag_addsNothing (m : MasterIx) (t : Tag) : AddsNothing s (s.addTag m t) :=
  State.updateMaster_addsNothing id

theorem State.recordError_addsNothing (m : MasterIx) (k : DeferredKind) : AddsNothing s (s.recordError m k) :=
  State.updateMaster_addsNothing id

theorem State.answerBarrier_addsNothing {m : MasterIx} {t : Tag} : AddsNothing s (s.answerBarrier m t) :=
  AddsNothing.trans (t := s.placeResponse (.barrierDone m t s.masters[m].deferred)) (.refl s)
    (State.updateMaster_addsNothing fun hf => absurd hf Bool.false_ne_true)

theorem State.closeRequest_addsNothing (e : EntryIx) : AddsNothing s (s.closeRequest e) := by
  rcases s.closeRequest_cases e with h | ⟨L, -, -, -, ⟨-, h⟩ | ⟨p, -, h⟩⟩ <;> rw [h]
  · exact .refl s
  · exact .refl s
  · exact .refl s

theorem State.closeRequest?_addsNothing (o : Option EntryIx) : AddsNothing s (s.closeRequest? o) := by
  cases o with
  | none => exact .refl s
  | some e => exact State.closeRequest_addsNothing e

theorem State.closeAll_addsNothing (es : List EntryIx) : AddsNothing s (s.closeAll es) := by
  induction es generalizing s with
  | nil => exact .refl s
  | cons e es ih => exact (State.closeRequest_addsNothing e).trans ih

theorem State.afterWrite_addsNothing (e : EntryIx) (attr : Attr) : AddsNothing s (s.afterWrite e attr) := by
  unfold State.afterWrite
  dsimp only
  have hfull : AddsNothing s (if s.buffer.entries[e].valid = BitVec.allOnes 32 then s.closeRequest e else s) := by
    split
    · exact State.closeRequest_addsNothing e
    · exact .refl s
  split
  · exact hfull.trans (State.closeRequest_addsNothing e)
  · exact hfull

theorem State.pressure_addsNothing : AddsNothing s s.pressure := by
  unfold State.pressure
  split
  · exact State.closeRequest?_addsNothing _
  · exact .refl s

theorem State.attachFill_addsNothing (r : ReadIx) (L : Nat) : AddsNothing s (s.attachFill r L) := by
  unfold State.attachFill
  split
  · split <;> exact .refl s
  · exact .refl s

theorem State.setRead_addsNothing {i : ReadIx} {x : ReadRec} (h : x.isReady = true → s.reads[i].isReady = true) :
    AddsNothing s (s.setRead i x) :=
  ⟨Nat.add_le_add_right (Nat.add_le_add_right (Nat.add_le_add_right (countFin_set_le h) _) _) _, rfl, rfl⟩

theorem State.freeEntryWait_offered : Offered s s.freeEntryWait := by
  unfold State.freeEntryWait
  dsimp only
  refine AddsNothing.headWaits ?_ (.inr rfl)
  split
  · exact AddsNothing.trans (t := s.raise .bufferStuck) (.refl s) (State.closeRequest?_addsNothing _)
  · exact State.closeRequest?_addsNothing _

/-! Each offer of a head that is there. -/

variable (hne : s.upstream.intake ≠ [])
include hne

theorem State.offerWrite_offered (L p : Nat) (bytes : List Byte) (m : MasterIx) (attr : Attr) :
    Offered s (s.offerWrite L p bytes m attr) := by
  unfold State.offerWrite
  split
  · next e _ =>
    have hstore : AddsNothing s (s.storeInto e p bytes m) := .refl s
    exact (hstore.trans (State.afterWrite_addsNothing e attr)).popHead hne
  · split
    · next e _ =>
      have hstore : AddsNothing s (s.storeInto e p bytes m) := .refl s
      exact (hstore.trans (State.recordError_addsNothing m .lineHeld)).popHead hne
    · split
      · next e _ =>
        have hopen : AddsNothing s (s.allocate e L p bytes m) := .refl s
        exact ((hopen.trans (State.afterWrite_addsNothing e attr)).trans State.pressure_addsNothing).popHead hne
      · exact State.freeEntryWait_offered

theorem State.refuse_offered (m : MasterIx) (t : Tag) (a : Option UpAddr) (k : ReqKind) (st : RefusalStatus)
    (w : HeadWait) : Offered s (s.refuse m t a k st w) := by
  unfold State.refuse
  split
  · dsimp only
    split
    · exact AddsNothing.popHead (.refl s) hne
    · exact AddsNothing.popHead (.refl s) hne
  · next hs => exact AddsNothing.headWaits (.refl s) (.inl (by simpa using hs))

theorem State.dropWrite_offered (m : MasterIx) (a : UpAddr) (f : FaultKind) (k : DeferredKind) :
    Offered s (s.dropWrite m a f k) :=
  AddsNothing.popHead (State.recordError_addsNothing (s := s) m k) hne

theorem State.offerRead_offered (L p n : Nat) (m : MasterIx) (t : Tag) : Offered s (s.offerRead L p n m t) := by
  unfold State.offerRead
  dsimp only
  split
  · split
    · next hs =>
      exact AddsNothing.popHead (State.addTag_addsNothing (s := s) m t) hne
    · next hs => exact AddsNothing.headWaits (.refl s) (.inl (by simpa using hs))
  · split
    · next r _ =>
      refine AddsNothing.popHead (((State.setRead_addsNothing ?_).trans (State.attachFill_addsNothing r L)).trans
        (State.addTag_addsNothing m t)) hne
      exact nofun
    · exact AddsNothing.headWaits (.refl s) (.inr rfl)

theorem State.offerBitOp_offered (L p : Nat) (k : BitKind) (operand : List Byte) (m : MasterIx) (t : Tag) :
    Offered s (s.offerBitOp L p k operand m t) := by
  unfold State.offerBitOp
  split
  · exact AddsNothing.headWaits (State.closeRequest?_addsNothing _) (.inr rfl)
  · split
    · exact AddsNothing.headWaits (.refl s) (.inr rfl)
    · next r _ =>
      refine AddsNothing.popHead (AddsNothing.trans (State.setBit_addsNothing ?_) (State.addTag_addsNothing m t)) hne
      exact nofun

theorem State.offerBarrier_offered (m : MasterIx) (t : Tag) : Offered s (s.offerBarrier m t) := by
  unfold State.offerBarrier
  dsimp only
  split
  · split
    · exact (State.answerBarrier_addsNothing.trans (State.addTag_addsNothing m t)).popHead hne
    · next hs => exact AddsNothing.headWaits (.refl s) (.inl (by simpa using hs))
  · next hw =>
    have htake : AddsNothing s (s.updateMaster m fun c => { c with barrier := some ⟨t, s.buffer.waitSet m⟩ }) :=
      State.updateMaster_addsNothing fun hf => absurd (eq_of_beq hf) hw
    exact ((htake.trans (State.closeAll_addsNothing _)).trans (State.addTag_addsNothing m t)).popHead hne

theorem State.offerHead_offered : Offered s s.offerHead := by
  unfold State.offerHead
  split
  · next hi => exact absurd hi hne
  · next m t a n _ _ =>
    unfold State.examineRead
    split
    · exact State.refuse_offered hne _ _ _ _ _ _
    · split
      · exact State.refuse_offered hne _ _ _ _ _ _
      · split
        · exact State.refuse_offered hne _ _ _ _ _ _
        · split
          · exact State.refuse_offered hne _ _ _ _ _ _
          · exact State.refuse_offered hne _ _ _ _ _ _
          · exact State.offerRead_offered hne _ _ n m t
  · next m _ a bytes _ _ =>
    unfold State.examineWrite
    split
    · exact State.dropWrite_offered hne _ _ _ _
    · split
      · exact State.dropWrite_offered hne _ _ _ _
      · split
        · exact State.dropWrite_offered hne _ _ _ _
        · exact State.dropWrite_offered hne _ _ _ _
        · exact State.offerWrite_offered hne _ _ bytes m _
  · next k m t a operand _ _ =>
    unfold State.examineBitOp
    split
    · exact State.refuse_offered hne _ _ _ _ _ _
    · split
      · exact State.refuse_offered hne _ _ _ _ _ _
      · split
        · exact State.refuse_offered hne _ _ _ _ _ _
        · split
          · exact State.refuse_offered hne _ _ _ _ _ _
          · exact State.refuse_offered hne _ _ _ _ _ _
          · split
            · exact State.refuse_offered hne _ _ _ _ _ _
            · exact State.offerBitOp_offered hne _ _ k operand m t
  · next m t _ _ =>
    unfold State.examineBarrier
    split
    · exact State.refuse_offered hne _ _ _ _ _ _
    · split
      · exact State.refuse_offered hne _ _ _ _ _ _
      · split
        · exact State.refuse_offered hne _ _ _ _ _ _
        · exact State.offerBarrier_offered hne m t

end Offers

/-! ### The end of an event -/

theorem State.toDo_nextGrant {s : State} {i : Internal} (h : s.nextGrant = some i) :
    (s.runInternal i).toDo < s.toDo := by
  obtain ⟨-, ⟨r, rfl, hr⟩ | ⟨r, rfl, -, hr⟩ | ⟨m, rfl, -, -, -, hm⟩⟩ := State.nextGrant_cases h
  · exact State.toDo_placeRead hr
  · exact State.toDo_placeBit hr
  · exact State.toDo_placeBarrier hm

theorem State.toDo_offerHead {s : State} (h : s.offerIsDue = true) : s.offerHead.toDo < s.toDo := by
  refine (State.offerHead_offered fun hi => ?_).toDo_lt h
  simp [State.offerIsDue, hi] at h

/-- Every step that is due leaves less to do. -/
theorem State.toDo_runInternal {s : State} {i : Internal} (h : s.nextInternal = some i) :
    (s.runInternal i).toDo < s.toDo := by
  rcases State.nextInternal_cases h with ⟨rfl, hc⟩ | ⟨-, hg | ⟨rfl, ho⟩ | ⟨rfl, hd⟩ | ⟨rfl, hi⟩ | ⟨rfl, hq⟩⟩
  · exact State.toDo_clear hc
  · exact State.toDo_nextGrant hg
  · exact State.toDo_offerHead ho
  · exact State.toDo_dispatch hd
  · exact State.toDo_issue hi
  · exact State.toDo_enterQuiesced hq

theorem State.settleLoop_ends : ∀ (n : Nat) (s : State), s.toDo < n → (s.settleLoop n).nextInternal = none
  | 0, _, h => absurd h (Nat.not_lt_zero _)
  | n + 1, s, h => by
    unfold State.settleLoop
    split
    · next i hi => exact State.settleLoop_ends n _ ((State.toDo_runInternal hi).trans_le (Nat.le_of_lt_succ h))
    · next hn => exact hn

theorem ite_some_eq_none {α : Type} {c : Prop} [Decidable c] {a : α} {x : Option α} :
    (if c then some a else x) = none ↔ ¬c ∧ x = none := by
  split <;> simp [*]

theorem State.nextUpstream_none_iff {s : State} :
    s.nextUpstream = none ↔ s.nextGrant = none ∧ s.offerIsDue = false := by
  unfold State.nextUpstream
  split
  · next i hg => simp [hg]
  · next hg => simp [hg]

theorem State.nextInternal_none_iff {s : State} : s.nextInternal = none ↔
    s.clearDue = false ∧ (s.nextGrant = none ∧ s.offerIsDue = false) ∧ s.dispatchChoice = none ∧ s.issueDue = false ∧
      s.quiesceDue = false := by
  rw [← State.nextUpstream_none_iff]
  unfold State.nextInternal
  cases s.nextUpstream with
  | some i => simp [ite_some_eq_none]
  | none => simp [ite_some_eq_none]

/-- The end of an event makes no step due. -/
theorem State.nextInternal_endEvent {s : State} (h : s.nextInternal = none) : s.endEvent.nextInternal = none := by
  obtain ⟨hc, ⟨hg, ho⟩, hd, hi, hq⟩ := State.nextInternal_none_iff.mp h
  refine State.nextInternal_none_iff.mpr ⟨hc, ⟨hg, ?_⟩, hd, hi, hq⟩
  have hdue : s.endEvent.offerIsDue = (s.examinable && !s.upstream.intake.isEmpty &&
      (false || (s.upstream.headWait.forSlot && s.slotAvailable))) := rfl
  rw [hdue]
  unfold State.offerIsDue at ho
  simp only [Bool.and_eq_false_iff, Bool.or_eq_false_iff] at ho ⊢
  exact ho.imp_right fun hwait => ⟨trivial, hwait.2⟩

/-- Settles O15: every step leaves less to do, and the most there can be to do is within the bound of `settle`. -/
theorem settleLeavesNothingDue : Obligations.SettleLeavesNothingDue := fun s h =>
  State.nextInternal_endEvent (State.settleLoop_ends stepBound s ((State.toDo_le h).trans_lt (by decide)))

end Sys2Proof.Machine

/-! ## Reads and the overlay snapshot (R62-R71, R143, R145) -/

namespace Sys2Proof.Machine

/-! ### The bytes of a span -/

theorem spanBytes_eq (d : LineBytes) {p n : Nat} (h : p + n ≤ 32) :
    spanBytes d p n = (List.finRange n).map fun i => d[p + i.val]'(by omega) := by
  have hbyte (i : Fin n) : d.toList.getD (p + i.val) 0 = d[p + i.val]'(by omega) := by
    rw [List.getD_eq_getElem _ _ (by rw [Vector.length_toList]; omega), Vector.getElem_toList]
  rw [spanBytes, ← List.map_coe_finRange_eq_range, List.map_map]
  exact List.map_congr_left fun i _ => hbyte i

/-- The byte at position `q` of a span that begins at `p`. -/
theorem spanBytes_at (d : LineBytes) {p n : Nat} (h : p + n ≤ 32) (q : Fin 32) (hp : p ≤ q.val) (hn : q.val < p + n) :
    (spanBytes d p n)[q.val - p]? = some d[q] := by
  have hq : p + (q.val - p) = q.val := by omega
  have hi : q.val - p < n := by omega
  simp [spanBytes_eq d h, hi, hq]

theorem length_spanBytes (d : LineBytes) (p n : Nat) : (spanBytes d p n).length = n := by
  simp [spanBytes]

/-! ### A read's record joins the fill of its line (R65) -/

theorem OperationList.lastOf_split {l : OperationList} {before after : List Operation} {o : Operation} {L : Nat}
    (hl : l.ops = before ++ o :: after) (ho : o.line = L) (hafter : ∀ x ∈ after, x.line ≠ L) : l.lastOf L = some o := by
  have hskip : after.reverse.find? (fun x => x.line == L) = none :=
    List.find?_eq_none.mpr fun x hx => by simpa using hafter x (List.mem_reverse.mp hx)
  simp [OperationList.lastOf, hl, List.find?_append, hskip, ho]

theorem OperationList.lastOf_none {l : OperationList} {L : Nat} (h : ∀ x ∈ l.ops, x.line ≠ L) : l.lastOf L = none :=
  List.find?_eq_none.mpr fun x hx => by simpa using h x (List.mem_reverse.mp hx)

theorem OperationList.modifyLast_split {l : OperationList} {before after : List Operation} {o : Operation} {L : Nat}
    (hl : l.ops = before ++ o :: after) (ho : o.line = L) (hafter : ∀ x ∈ after, x.line ≠ L)
    (f : Operation → Operation) : l.modifyLast L f = { l with ops := before ++ f o :: after } := by
  have hskip (x : Operation) (hx : x ∈ after.reverse) : (x.line == L) = false :=
    beq_eq_false_iff_ne.mpr (hafter x (List.mem_reverse.mp hx))
  have hrev : l.ops.reverse = after.reverse ++ o :: before.reverse := by simp [hl]
  have hfirst := modifyFirst_append (p := fun x => x.line == L) (f := f) (post := before.reverse)
    (beq_iff_eq.mpr ho) hskip
  simp [OperationList.modifyLast, hrev, hfirst]

theorem Operation.joinable_iff {o : Operation} :
    o.joinable = true ↔ ∃ rs, o.work = .fill rs ∧ o.phase = .queued ∧ rs.length < 8 := by
  obtain ⟨work, line, order, phase⟩ := o
  cases work with
  | fill rs =>
    cases phase with
    | queued =>
      have hroom : Operation.joinable ⟨.fill rs, line, order, .queued⟩ = true ↔ rs.length < 8 := decide_eq_true_iff
      simpa using hroom
    | inFlight _ => simp [Operation.joinable]
  | drain _ _ | bitop _ | scrub => simp [Operation.joinable]

section Attach
variable {s : State} {r : ReadIx} {L : Nat} {before after : List Operation} {o : Operation}

theorem State.attachFill_joins {readers : List ReadIx} {q : BitVec 16}
    (hl : s.opList.ops = before ++ ⟨.fill readers, L, q, .queued⟩ :: after) (hafter : ∀ x ∈ after, x.line ≠ L)
    (hroom : readers.length < 8) : s.attachFill r L = { s with opList := { s.opList with
      ops := before ++ ⟨.fill (readers ++ [r]), L, q, .queued⟩ :: after } } := by
  have hjoin : Operation.joinable ⟨.fill readers, L, q, .queued⟩ = true :=
    Operation.joinable_iff.mpr ⟨readers, rfl, rfl, hroom⟩
  simp only [State.attachFill, OperationList.lastOf_split hl rfl hafter, hjoin, if_true,
    OperationList.modifyLast_split hl rfl hafter]
  rfl

theorem State.attachFill_of_none (h : ∀ x ∈ s.opList.ops, x.line ≠ L) : s.attachFill r L = s.appendOp (.fill [r]) L := by
  simp only [State.attachFill, OperationList.lastOf_none h]

theorem State.attachFill_of_not_joinable (hl : s.opList.ops = before ++ o :: after) (ho : o.line = L)
    (hafter : ∀ x ∈ after, x.line ≠ L) (hjoin : o.joinable = false) : s.attachFill r L = s.appendOp (.fill [r]) L := by
  simp only [State.attachFill, OperationList.lastOf_split hl ho hafter, hjoin, Bool.false_eq_true, if_false]

end Attach

/-! ### A READ at the head (R62-R66, R139, R143) -/

theorem ReadRec.isFree_iff {x : ReadRec} : x.isFree = true ↔ x = .free := by
  cases x <;> simp [ReadRec.isFree]

section HeadRead
variable {s : State} {rest : List Request} {m : MasterIx} {t : Tag} {a : UpAddr} {k A : Nat} {n : RegionIx} {attr : Attr}
  {L p : Nat}

/-- A READ at the head in RUN that passes the checks is offered to the read unit (R139). -/
theorem exec_headOffer_read (hi : s.upstream.intake = .read m t a k :: rest) (hb : s.upstream.busrst = false)
    (hr : s.control.bridge = .run) (ht : s.masters[m].tags.getLsbD t = false) (h1 : 1 ≤ k)
    (h32 : a.toNat % 32 + k ≤ 32) (hl : s.regionMap.lookup m false a = .mapped A n attr) :
    exec .headOffer s = .next (s.offerRead (A / 32) (A % 32) k m t).settle := by
  have hex : s.examinable = true := by simp [State.examinable, hr, hb]
  have hin : inLine a k = true := decide_eq_true ⟨h1, h32⟩
  have htag : s.tagHeld m t = false := ht
  simp only [exec, execHeadOffer, hex, hi, List.isEmpty_cons, Bool.not_false, Bool.and_self, if_true, State.offerHead,
    State.examineRead, hr, BridgeState.headRefusal, htag, hin, Bool.true_eq_false, Bool.false_eq_true, if_false, hl]
  rfl

theorem State.popHead_of_cons {q : Request} (h : s.upstream.intake = q :: rest) : s.popHead = { s with
    upstream := { s.upstream with intake := rest, headWait := .none, offerDue := !rest.isEmpty } } := by
  simp only [State.popHead, h, List.tail_cons]

/-- A read covered by the overlay, with a slot available, is answered at the head (R63). -/
theorem State.offerRead_answers {q : Request} (hi : s.upstream.intake = q :: rest)
    (hc : spanSet p k &&& ~~~(s.buffer.overlay L).1 = 0) (hslot : s.upstream.responses.length < 16) :
    s.offerRead L p k m t = State.addTag { s with upstream := { s.upstream with
      intake := rest, headWait := .none, offerDue := !rest.isEmpty
      responses := s.upstream.responses ++ [.data m t .ok (spanBytes (s.buffer.overlay L).2 p k)] } } m t := by
  have hs : s.slotAvailable = true := decide_eq_true hslot
  have hplaced : ((s.placeResponse (.data m t .ok (spanBytes (s.buffer.overlay L).2 p k))).addTag m t).upstream.intake =
      q :: rest := hi
  simp only [State.offerRead, hc, hs, if_true, State.popHead_of_cons hplaced]
  rfl

theorem State.offerRead_takes {r : ReadIx} (hc : ¬spanSet p k &&& ~~~(s.buffer.overlay L).1 = 0)
    (hfree : s.reads[r] = .free) (hlow : ∀ i : ReadIx, i < r → s.reads[i] ≠ .free) : s.offerRead L p k m t =
      (((s.setRead r (.waitFill ⟨m, t, L, p, k, (s.buffer.overlay L).1, (s.buffer.overlay L).2⟩)).attachFill r
        L).addTag m t).popHead := by
  have hlowest : (lowestFin 8 fun i => s.reads[i].isFree) = some r :=
    lowestFin_some.mpr ⟨ReadRec.isFree_iff.mpr hfree, fun i hi =>
      Bool.eq_false_iff.mpr (mt ReadRec.isFree_iff.mp (hlow i hi))⟩
  simp only [State.offerRead, hc, if_false, hlowest]

theorem State.offerRead_waits_slot (hc : spanSet p k &&& ~~~(s.buffer.overlay L).1 = 0)
    (hfull : 16 ≤ s.upstream.responses.length) : s.offerRead L p k m t = s.headWaits (.read L) := by
  have hs : s.slotAvailable = false := decide_eq_false (Nat.not_lt.mpr hfull)
  simp only [State.offerRead, hc, hs, if_true, Bool.false_eq_true, if_false]

theorem State.offerRead_waits_record (hc : ¬spanSet p k &&& ~~~(s.buffer.overlay L).1 = 0)
    (hnone : ∀ r : ReadIx, s.reads[r] ≠ .free) : s.offerRead L p k m t = s.headWaits (.read L) := by
  have hlowest : (lowestFin 8 fun i => s.reads[i].isFree) = none :=
    lowestFin_none.mpr fun i => Bool.eq_false_iff.mpr (mt ReadRec.isFree_iff.mp (hnone i))
  simp only [State.offerRead, hc, if_false, hlowest]

end HeadRead

/-- Settles O24: the three outcomes of the offer, the last operation of the line split off the list, and the bytes of a
span. -/
theorem readsAreAnsweredOrTaken : Obligations.ReadsAreAnsweredOrTaken := by
  refine ⟨fun s rest m t a k A n attr hi hb hr ht h1 h32 hl => ?_, fun s r L before after readers q =>
    ⟨State.attachFill_joins, ?_⟩, fun d p n h => spanBytes_eq d h⟩
  · dsimp only
    rw [exec_headOffer_read hi hb hr ht h1 h32 hl]
    refine ⟨fun hc hslot => ?_, fun r hc hfree hlow => ?_, ?_⟩
    · rw [State.offerRead_answers hi hc hslot]
    · rw [State.offerRead_takes hc hfree hlow]
      rfl
    · rintro (⟨hc, hfull⟩ | ⟨hc, hnone⟩)
      · rw [State.offerRead_waits_slot hc hfull]
        rfl
      · rw [State.offerRead_waits_record hc hnone]
        rfl
  · rintro (hnone | ⟨o, hl, hline, hafter, hnot⟩)
    · exact State.attachFill_of_none hnone
    · refine State.attachFill_of_not_joinable hl hline hafter (Bool.eq_false_iff.mpr fun hjoin => ?_)
      obtain ⟨rs, hwork, hphase, hroom⟩ := Operation.joinable_iff.mp hjoin
      refine hnot rs o.queuedOrder hroom ?_
      rw [← hwork, ← hphase, ← hline]

/-! ### The answer of a fill's reader (R67) -/

theorem PosSet.ne_zero_iff {v : PosSet} : v ≠ 0 ↔ ∃ q : Fin 32, v.getLsbD q = true := by
  constructor
  · intro hv
    have hbit := BitVec.getLsbD_true_ctz_of_ne_zero hv
    exact ⟨⟨_, BitVec.lt_of_getLsbD hbit⟩, hbit⟩
  · rintro ⟨q, hq⟩ rfl
    simp at hq

section Answer
variable {r : ReadReq} {ws : Vector ReadWord 4}

theorem ReadReq.fromArray_at (q : Fin 32) : r.fromArray.getLsbD q = true ↔
    r.first ≤ q.val ∧ q.val < r.first + r.count ∧ r.overlaySet.getLsbD q = false := by
  rw [ReadReq.fromArray, ReadReq.requested, BitVec.getLsbD_and, BitVec.getLsbD_not, getLsbD_spanSet _ _ _ q.isLt]
  simp [and_assoc]

theorem ReadReq.needs_iff {w : WordIx} : r.needs w = true ↔ ∃ q : Fin 32,
    r.first ≤ q.val ∧ q.val < r.first + r.count ∧ r.overlaySet.getLsbD q = false ∧ wordOfPos q.val = w := by
  have hword (q : Fin 32) : (wordSet w).getLsbD q = true ↔ wordOfPos q.val = w := by
    have hq : (wordOfPos q.val).val = q.val / 8 := Nat.mod_eq_of_lt (by omega)
    rw [getLsbD_wordSet, decide_eq_true_eq, Fin.ext_iff, hq]
  simp only [ReadReq.needs, bne_iff_ne, PosSet.ne_zero_iff, BitVec.getLsbD_and, Bool.and_eq_true,
    ReadReq.fromArray_at, hword, and_assoc]

/-- A reader is answered DATA-ERROR when a byte it takes from the array lies in an UNCORRECTABLE word (R67). -/
theorem ReadReq.spoiled_iff : r.spoiled ws = true ↔ ∃ q : Fin 32, r.first ≤ q.val ∧ q.val < r.first + r.count ∧
    r.overlaySet.getLsbD q = false ∧ ws[wordOfPos q.val].cls = .uncorrectable := by
  have hfound : r.spoiled ws = true ↔ ∃ w : WordIx, ws[w].bad = true ∧ r.needs w = true := by
    simp [ReadReq.spoiled, lowestWord, lowestFin]
  rw [hfound]
  constructor
  · rintro ⟨w, hbad, hneeds⟩
    obtain ⟨q, hfirst, hlast, hq, rfl⟩ := ReadReq.needs_iff.mp hneeds
    exact ⟨q, hfirst, hlast, hq, ReadWord.bad_iff.mp hbad⟩
  · rintro ⟨q, hfirst, hlast, hq, hcls⟩
    exact ⟨wordOfPos q.val, ReadWord.bad_iff.mpr hcls, ReadReq.needs_iff.mpr ⟨q, hfirst, hlast, hq, rfl⟩⟩

theorem ReadReq.answer_spoiled (h : r.spoiled ws = true) : r.answer ws = (.dataError, List.replicate r.count 0) :=
  if_pos h

theorem ReadReq.answer_good (h : r.spoiled ws = false) : r.answer ws =
    (.ok, spanBytes (overlayBytes r.overlaySet r.overlayData (readBytes ws)) r.first r.count) :=
  if_neg (Bool.eq_false_iff.mp h)

theorem ReadReq.answer_status : (r.answer ws).1 = .dataError ↔ r.spoiled ws = true := by
  cases h : r.spoiled ws with
  | true => simp [ReadReq.answer_spoiled h]
  | false => simp [ReadReq.answer_good h]

/-- Position by position, the snapshot's byte or the array's (R67). -/
theorem overlayBytes_readBytes_at (v : PosSet) (d : LineBytes) (q : Fin 32) :
    (overlayBytes v d (readBytes ws))[q] = if v.getLsbD q then d[q] else byteAt ws q.val := by
  simp [overlayBytes_readBytes]

end Answer

/-! ### The completion of a fill (R67, R68, R71) -/

section Fill
variable {s : State} {k : LaneIx} {o : Operation} {readers : List ReadIx} {ws : Vector ReadWord 4}

theorem State.laneRead_fill (ho : s.laneOp k = some o) (hw : o.work = .fill readers) :
    s.laneRead k ws = s.fillDone k o readers ws := by
  simp only [State.laneRead, ho, hw]

theorem State.logFault?_setLane (f : Option FaultRecord) (l : Lane) :
    (s.logFault? f).setLane k l = (s.setLane k l).logFault? f := by
  cases f <;> rfl

theorem State.answerReaders_setLane (f : ReadReq → RecordStatus × List Byte) (l : Lane) :
    (s.answerReaders readers f).setLane k l = (s.setLane k l).answerReaders readers f :=
  apply_ite (State.setLane · k l) _ _ _

/-- The fill leaves the list, its lane is IDLE, and its readers have their answers; the fault comes last (R67, R68). -/
theorem State.fillDone_eq : s.fillDone k o readers ws =
    (((s.removeLaneOp k).setLane k .idle).answerReaders readers fun r => r.answer ws).logFault?
      (s.fillFault o readers ws) := by
  rw [State.fillDone, State.logFault?_setLane, State.answerReaders_setLane]

/-- The readers answered DATA-ERROR, whichever way they are picked (R68). -/
theorem State.spoiledReaders_eq {f : ReadIx → Option ReadReq}
    (hf : ∀ i, f i = s.reads[i].waiting.filter fun r => r.spoiled ws) :
    readers.filterMap f = s.spoiledReaders readers ws := by
  rw [State.spoiledReaders, List.filter_filterMap]
  exact List.filterMap_congr fun i _ => hf i

theorem State.fillFault_none (h : s.spoiledReaders readers ws = []) : s.fillFault o readers ws = none := by
  simp only [State.fillFault, h]

/-- An UNCORRECTABLE word of which some reader of a list takes a byte from the array (R68). -/
theorem bad_and_needed_iff {l : List ReadReq} {w : WordIx} : (ws[w].bad && l.any fun r => r.needs w) = true ↔
    ws[w].cls = .uncorrectable ∧ ∃ r ∈ l, ∃ q : Fin 32, r.first ≤ q.val ∧ q.val < r.first + r.count ∧
      r.overlaySet.getLsbD q = false ∧ wordOfPos q.val = w := by
  simp only [Bool.and_eq_true, ReadWord.bad_iff, List.any_eq_true, ReadReq.needs_iff]

/-- The READ-UNCORRECTABLE fault names the first reader answered DATA-ERROR and the lowest bad word that such readers
needed (R68). -/
theorem State.fillFault_some {l rs : List ReadReq} {r : ReadReq} {w : WordIx} (hl : l = s.spoiledReaders readers ws)
    (hsome : l = r :: rs) (hw : lowestWord (fun v => ws[v].bad && l.any fun x => x.needs v) = some w) :
    s.fillFault o readers ws = some { FaultRecord.of (.readUncorrectable l.length) with
      master := some r.master, tag := some r.tag, line := some o.line, word := some w, operation := some o.label } := by
  subst hsome
  simp only [State.fillFault, ← hl, hw]

end Fill

/-- Settles O39: a reader is spoiled by the positions it takes from the array, and the fault names the lowest word of such
positions; the readers' records, the list and the lane are as the model's steps leave them. -/
theorem readersTakeOverlayThenArray : Obligations.ReadersTakeOverlayThenArray := by
  refine ⟨fun r ws hspan => ⟨fun hbad => ReadReq.answer_spoiled (ReadReq.spoiled_iff.mpr hbad), fun hgood => ?_⟩,
    fun s k o readers ws ho hw => ?_⟩
  · have hs : r.spoiled ws = false := Bool.eq_false_iff.mpr fun h => by
      obtain ⟨q, hfirst, hlast, hq, hcls⟩ := ReadReq.spoiled_iff.mp h
      exact hgood q hfirst hlast hq hcls
    rw [ReadReq.answer_good hs]
    refine ⟨rfl, length_spanBytes _ _ _, fun q hfirst hlast => ?_⟩
    rw [spanBytes_at _ hspan q hfirst hlast, overlayBytes_readBytes_at]
  · intro failed ended woken needed
    have hfailed : failed = s.spoiledReaders readers ws := State.spoiledReaders_eq fun i => by
      cases hi : s.reads[i] with
      | waitFill r =>
        simp only [ReadRec.waiting, Option.filter_some, ReadReq.answer_status]
      | free | ready _ _ _ | orphaned _ => rfl
    have hwoken : woken = ((s.removeLaneOp k).setLane k .idle).answerReaders readers fun r => r.answer ws := rfl
    rw [State.laneRead_fill ho hw, State.fillDone_eq, ← hwoken]
    refine ⟨fun hnone => ?_, fun r rs w hsome hneeded hlow => ?_⟩
    · rw [State.fillFault_none (hfailed.symm.trans hnone)]
      rfl
    · have hword : lowestWord (fun v => ws[v].bad && failed.any fun x => x.needs v) = some w :=
        lowestFin_some.mpr ⟨bad_and_needed_iff.mpr hneeded, fun v hv =>
          Bool.eq_false_iff.mpr fun h => hlow v hv (bad_and_needed_iff.mp h)⟩
      have hlabel : o.label = (.fillRead, o.queuedOrder) := by rw [Operation.label, hw, Work.kind]
      rw [State.fillFault_some hfailed hsome hword, hlabel]
      rfl

/-! ### Responses that wait for a slot (R70, R84, R94, R145) -/

section Grants
variable {s : State}

theorem State.readyRead_none (h : ∀ (j : ReadIx) r st d, s.reads[j] ≠ .ready r st d) : s.readyRead = none := by
  refine Option.eq_none_iff_forall_ne_some.mpr fun i hi => ?_
  obtain ⟨r, st, d, hready⟩ := State.readyRead_ready hi
  exact h i r st d hready

theorem State.readyBit_none (h : ∀ (j : BitIx) b st d, s.bitops[j] ≠ .ready b st d) : s.readyBit = none := by
  refine Option.eq_none_iff_forall_ne_some.mpr fun i hi => ?_
  obtain ⟨b, st, d, hready⟩ := State.readyBit_ready hi
  exact h i b st d hready

theorem State.readyRead_lowest {i : ReadIx} {r : ReadReq} {st : RecordStatus} {d : List Byte}
    (hi : s.reads[i] = .ready r st d) (hlow : ∀ j, j < i → ∀ r st d, s.reads[j] ≠ .ready r st d) :
    s.readyRead = some i := by
  refine lowestFin_some.mpr ⟨by rw [hi], fun j hj => ?_⟩
  split
  · next r st d hready => exact absurd hready (hlow j hj r st d)
  · rfl

theorem State.readyBit_lowest {i : BitIx} {b : BitReq} {st : RecordStatus} {d : List Byte}
    (hi : s.bitops[i] = .ready b st d) (hlow : ∀ j, j < i → ∀ b st d, s.bitops[j] ≠ .ready b st d) :
    s.readyBit = some i := by
  refine lowestFin_some.mpr ⟨by rw [hi], fun j hj => ?_⟩
  split
  · next b st d hready => exact absurd hready (hlow j hj b st d)
  · rfl

theorem MasterCtx.finished_iff {c : MasterCtx} : c.finished = true ↔ ∃ t, c.barrier = some ⟨t, 0⟩ := by
  obtain ⟨tags, barrier, deferred⟩ := c
  cases barrier with
  | none => simp [MasterCtx.finished]
  | some b =>
    obtain ⟨tag, waitSet⟩ := b
    simp [MasterCtx.finished]

theorem BridgeState.answersBarriers_of_ne {b : BridgeState} (hh : b ≠ .halted) (hr : b ≠ .restarting) :
    b.answersBarriers = true := by
  cases b with
  | run | quiescing | quiesced | config => rfl
  | halted => exact absurd rfl hh
  | restarting => exact absurd rfl hr

/-- The lowest finished barrier is due outside HALTED and RESTARTING (R94). -/
theorem State.barrierDue_lowest {m : MasterIx} {t : Tag} (hm : s.masters[m].barrier = some ⟨t, 0⟩)
    (hlow : ∀ j : MasterIx, j < m → ∀ t', s.masters[j].barrier ≠ some ⟨t', 0⟩) (hh : s.control.bridge ≠ .halted)
    (hr : s.control.bridge ≠ .restarting) : s.barrierDue = some m := by
  rw [State.barrierDue, BridgeState.answersBarriers_of_ne hh hr, if_pos rfl]
  refine lowestFin_some.mpr ⟨MasterCtx.finished_iff.mpr ⟨t, hm⟩, fun j hj => Bool.eq_false_iff.mpr fun hf => ?_⟩
  obtain ⟨t', ht'⟩ := MasterCtx.finished_iff.mp hf
  exact hlow j hj t' ht'

section Slot
variable (hslot : s.upstream.responses.length < 16)
include hslot

/-- READ_RESPONSE_PLACED with a READY read record first in the order of R145 (R70). -/
theorem exec_readResponsePlaced {i : ReadIx} (hi : s.readyRead = some i) :
    exec .readResponsePlaced s = .next (s.placeRead i).settle := by
  have hs : s.slotAvailable = true := decide_eq_true hslot
  have hgrant : s.nextGrant = some (.placeRead i) := by simp only [State.nextGrant, hs, if_true, hi]
  simp only [exec, execReadResponsePlaced, hgrant]

/-- BITOP_RESPONSE_PLACED with a READY bit operation record first in the order of R145 (R84). -/
theorem exec_bitopResponsePlaced {i : BitIx} (hread : s.readyRead = none) (hi : s.readyBit = some i) :
    exec .bitopResponsePlaced s = .next (s.placeBit i).settle := by
  have hs : s.slotAvailable = true := decide_eq_true hslot
  have hgrant : s.nextGrant = some (.placeBit i) := by simp only [State.nextGrant, hs, if_true, hread, hi]
  simp only [exec, execBitopResponsePlaced, hgrant]

/-- BARRIER_RESPONSE_PLACED with a barrier due and no record READY (R94, R145). -/
theorem exec_barrierResponsePlaced {m : MasterIx} (hread : s.readyRead = none) (hbit : s.readyBit = none)
    (hm : s.barrierDue = some m) : exec .barrierResponsePlaced s = .next (s.placeBarrier m).settle := by
  have hs : s.slotAvailable = true := decide_eq_true hslot
  have hgrant : s.nextGrant = some (.placeBarrier m) := by
    simp only [State.nextGrant, hs, if_true, hread, hbit, hm, Option.map_some]
  simp only [exec, execBarrierResponsePlaced, hgrant]

end Slot

end Grants

/-- Settles O28: the next claimant in the order of R145, then its placement. -/
theorem readyResponsesTakeSlotsInOrder : Obligations.ReadyResponsesTakeSlotsInOrder := by
  intro s hslot
  refine ⟨fun i r st d hi hlow => ?_, fun i b st d hread hi hlow => ?_, fun m t hread hbit hm hlow hh hr => ?_⟩
  · rw [exec_readResponsePlaced hslot (State.readyRead_lowest hi hlow), State.placeRead, hi]
    rfl
  · rw [exec_bitopResponsePlaced hslot (State.readyRead_none hread) (State.readyBit_lowest hi hlow), State.placeBit, hi]
    rfl
  · rw [exec_barrierResponsePlaced hslot (State.readyRead_none hread) (State.readyBit_none hbit)
      (State.barrierDue_lowest hm hlow hh hr), State.placeBarrier, hm]
    rfl

end Sys2Proof.Machine

/-! ## Bit operations: the offer, the line read, the bytes written (R76-R86, R139, R140) -/

namespace Sys2Proof.Machine

/-! ### A refusal (R140) -/

section Refusal
variable {s : State} {m : MasterIx} {t : Tag} {a : Option UpAddr} {k : ReqKind} {st : RefusalStatus} {w : HeadWait}

theorem State.popHead_logFault (r : FaultRecord) : (s.logFault r).popHead = s.popHead.logFault r := rfl

/-- With a slot available the REFUSED response enters, and the head leaves; a TAG-CLASH is logged too. -/
theorem State.refuse_of_slot {q : Request} {rest : List Request} (hi : s.upstream.intake = q :: rest)
    (hslot : s.upstream.responses.length < 16) : s.refuse m t a k st w =
      let placed : State := { s with upstream := { s.upstream with
        intake := rest, headWait := .none, offerDue := !rest.isEmpty
        responses := s.upstream.responses ++ [.refused m t st] } }
      if st = .tagClash then placed.logFault ⟨0, .tagClash k, some m, some t, a, none, none, none, none⟩ else placed := by
  have hs : s.slotAvailable = true := decide_eq_true hslot
  have hplaced : (s.placeResponse (.refused m t st)).upstream.intake = q :: rest := hi
  simp only [State.refuse, hs, if_true, apply_ite State.popHead, State.popHead_logFault, State.popHead_of_cons hplaced]
  rfl

/-- Without a slot the head waits as it is told. -/
theorem State.refuse_of_full (hfull : 16 ≤ s.upstream.responses.length) : s.refuse m t a k st w = s.headWaits w := by
  have hs : s.slotAvailable = false := decide_eq_false (Nat.not_lt.mpr hfull)
  simp only [State.refuse, hs, Bool.false_eq_true, if_false]

end Refusal

/-! ### A bit operation at the head (R78-R80, R139) -/

theorem CombineBuffer.heldEntry_of_not_hasEntry {b : CombineBuffer} {L : Nat} (h : b.hasEntry L = false) :
    b.heldEntry L = none := by
  have hnone : b.entryOf (· != .free) L = none := Option.not_isSome_iff_eq_none.mp (Bool.eq_false_iff.mp h)
  refine Option.eq_none_iff_forall_ne_some.mpr fun e he => ?_
  obtain ⟨hheld, hline⟩ := CombineBuffer.heldEntry_spec he
  exact CombineBuffer.entryOf_none hnone e (by rw [hheld]; rfl) hline

theorem BitRec.isFree_iff {x : BitRec} : x.isFree = true ↔ x = .free := by
  cases x <;> simp [BitRec.isFree]

section HeadBitOp
variable {s : State} {rest : List Request} {kind : BitKind} {m : MasterIx} {t : Tag} {a : UpAddr} {operand : List Byte}
  {A : Nat} {n : RegionIx} {attr : Attr} {L p : Nat}

/-- A bit operation at the head in RUN that passes checks 1 to 5: refused by a HELD entry of its line, and otherwise
offered to the bit operation unit (R78, R139). -/
theorem exec_headOffer_bitOp (hi : s.upstream.intake = .bitOp kind m t a operand :: rest)
    (hb : s.upstream.busrst = false) (hr : s.control.bridge = .run) (ht : s.masters[m].tags.getLsbD t = false)
    (h1 : 1 ≤ operand.length) (h8 : a.toNat % 8 + operand.length ≤ 8)
    (hl : s.regionMap.lookup m true a = .mapped A n attr) :
    exec .headOffer s = .next (if s.buffer.heldEntry (A / 32) = none then s.offerBitOp (A / 32) (A % 32) kind operand m t
      else s.refuse m t (some a) (.bits kind) .lineHeld (.slot (some (A / 32)))).settle := by
  have hex : s.examinable = true := by simp [State.examinable, hr, hb]
  have hin : inWord a operand.length = true := decide_eq_true ⟨h1, h8⟩
  have htag : s.tagHeld m t = false := ht
  simp only [exec, execHeadOffer, hex, hi, List.isEmpty_cons, Bool.not_false, Bool.and_self, if_true, State.offerHead,
    State.examineBitOp, hr, BridgeState.headRefusal, htag, hin, Bool.true_eq_false, Bool.false_eq_true, if_false, hl,
    lineOf, posOf]
  cases hheld : s.buffer.heldEntry (A / 32) with
  | none => rfl
  | some e => rfl

/-- An entry of its line keeps the bit operation waiting, and an OPEN one is close-requested (R78). -/
theorem State.offerBitOp_waits_line (he : ¬s.buffer.hasEntry L = false) :
    s.offerBitOp L p kind operand m t = (s.closeRequest? (s.buffer.openEntry L)).headWaits (.bitOp L) :=
  if_pos (Bool.eq_true_of_not_eq_false he)

theorem State.offerBitOp_waits_record (he : s.buffer.hasEntry L = false) (hnone : ∀ r : BitIx, s.bitops[r] ≠ .free) :
    s.offerBitOp L p kind operand m t = s.headWaits (.bitOp L) := by
  have hlowest : (lowestFin 4 fun i => s.bitops[i].isFree) = none :=
    lowestFin_none.mpr fun i => Bool.eq_false_iff.mpr (mt BitRec.isFree_iff.mp (hnone i))
  simp only [State.offerBitOp, he, Bool.false_eq_true, if_false, hlowest]

/-- The lowest FREE record takes the bit operation, and a BITOP is appended (R80). -/
theorem State.offerBitOp_admits {r : BitIx} (he : s.buffer.hasEntry L = false) (hfree : s.bitops[r] = .free)
    (hlow : ∀ i : BitIx, i < r → s.bitops[i] ≠ .free) : s.offerBitOp L p kind operand m t =
      (((s.setBit r (.queued ⟨m, t, kind, L, wordOfPos p, p, operand⟩)).appendOp (.bitop r) L).addTag m t).popHead := by
  have hlowest : (lowestFin 4 fun i => s.bitops[i].isFree) = some r :=
    lowestFin_some.mpr ⟨BitRec.isFree_iff.mpr hfree, fun i hi =>
      Bool.eq_false_iff.mpr (mt BitRec.isFree_iff.mp (hlow i hi))⟩
  simp only [State.offerBitOp, he, Bool.false_eq_true, if_false, hlowest]

end HeadBitOp

/-- Settles O25: refused by a HELD entry, else waiting for its line or for a record, else admitted. -/
theorem bitOperationsAreAdmitted : Obligations.BitOperationsAreAdmitted := by
  intro s rest kind m t a operand A n attr hi hb hr ht h1 h8 hl
  dsimp only
  rw [exec_headOffer_bitOp hi hb hr ht h1 h8 hl]
  refine ⟨fun hheld => ⟨fun hslot => ?_, fun hfull => ?_⟩, fun hheld hentry => ?_, fun hfree hnone => ?_,
    fun r hfree hrec hlow => ?_⟩
  · rw [if_neg hheld, State.refuse_of_slot hi hslot]
    rfl
  · rw [if_neg hheld, State.refuse_of_full hfull]
    rfl
  · rw [if_pos hheld, State.offerBitOp_waits_line hentry]
  · rw [if_pos (CombineBuffer.heldEntry_of_not_hasEntry hfree), State.offerBitOp_waits_record hfree hnone]
    rfl
  · rw [if_pos (CombineBuffer.heldEntry_of_not_hasEntry hfree), State.offerBitOp_admits hfree hrec hlow]
    have hintake (x : BitRec) : (((s.setBit r x).appendOp (.bitop r) (A / 32)).addTag m t).upstream.intake =
      .bitOp kind m t a operand :: rest := hi
    rw [State.popHead_of_cons (hintake _)]
    rfl

/-! ### The record of a running BITOP (R82, R83, R85) -/

section Record
variable {x : BitRec} {b : BitReq} {old : List Byte}

theorem BitRec.running_of (h : x = .inFlight b old ∨ x = .orphaned b) : x.running = some b := by
  rcases h with rfl | rfl <;> rfl

/-- At completion an ORPHANED record is FREE, and an IN-FLIGHT one READY with the result (R83, R85). -/
theorem BitRec.complete_of_running (h : x = .inFlight b old ∨ x = .orphaned b) (st : RecordStatus) (d : List Byte) :
    x.complete st d = if x = .orphaned b then .free else .ready b st d := by
  rcases h with rfl | rfl
  · rfl
  · rw [if_pos rfl, BitRec.complete]

/-- A record completed with its own old bytes returns those it kept when it is IN-FLIGHT (R82, R83). -/
theorem BitRec.complete_oldBytes (h : x = .inFlight b old ∨ x = .orphaned b) (st : RecordStatus) :
    x.complete st x.oldBytes = if x = .orphaned b then .free else .ready b st old := by
  rcases h with rfl | rfl
  · rfl
  · rw [if_pos rfl, BitRec.complete]

theorem BitRec.isOrphaned_iff (h : x = .inFlight b old ∨ x = .orphaned b) : x.isOrphaned = true ↔ x = .orphaned b := by
  rcases h with rfl | rfl <;> simp [BitRec.isOrphaned]

end Record

section BitOpRead
variable {s : State} {k : LaneIx} {o : Operation} {i : BitIx} {b : BitReq} {old : List Byte} {ws : Vector ReadWord 4}

/-- A record that keeps the bytes read: an ORPHANED one returns none, and stays as it is (R82, R85). -/
theorem State.setBit_keepOld (h : s.bitops[i] = .inFlight b old ∨ s.bitops[i] = .orphaned b) (d : List Byte) :
    s.setBit i (s.bitops[i].keepOld d) = { s with
      bitops := if s.bitops[i] = .orphaned b then s.bitops else s.bitops.set i (.inFlight b d) } := by
  rcases h with h | h
  · rw [if_neg (by simp [h]), h]
    rfl
  · have hsame : s.bitops.set i (.orphaned b) = s.bitops := by
      rw [← h]
      exact Vector.set_getElem_self _
    rw [if_pos h, h]
    exact congrArg (fun v => { s with bitops := v }) hsame

/-- The BITOP leaves the list, its record has its result, its lane is IDLE, and a record freed wakes a waiting bit
operation (R79, R83, R85); the fault, which touches none of these, is put first. -/
theorem State.completeBitOp_eq (h : s.bitops[i] = .inFlight b old ∨ s.bitops[i] = .orphaned b) (st : RecordStatus)
    (d : List Byte) (f : Option FaultRecord) : s.completeBitOp k i st d f =
      let ended := (((s.logFault? f).removeLaneOp k).setBit i (s.bitops[i].complete st d)).setLane k .idle
      if s.bitops[i] = .orphaned b then ended.wake .bitFreed else ended := by
  simp only [State.completeBitOp, BitRec.isOrphaned_iff h]
  split
  · cases f <;> rfl
  · cases f <;> rfl

/-! ### What a lane does with the line read for a bit operation (R59, R81, R82) -/

theorem State.laneRead_bitop (ho : s.laneOp k = some o) (hw : o.work = .bitop i) :
    s.laneRead k ws = s.bitopRead k o i ws := by
  simp only [State.laneRead, ho, hw]

theorem bitopFault_eq (hw : o.work = .bitop i) (d : BitopDetail) (w : WordIx) : bitopFault o b d w =
    ⟨0, .bitopUncorrectable d, some b.master, some b.tag, none, some o.line, some w, none,
      some (.bitop, o.queuedOrder)⟩ := by
  rw [bitopFault, Operation.label, hw]
  rfl

/-- An UNCORRECTABLE target word ends the BITOP with DATA-ERROR and zeros (R81). -/
theorem State.bitopRead_target (h : s.bitops[i].running = some b) (hbad : ws[b.word].cls = .uncorrectable) :
    s.bitopRead k o i ws = s.completeBitOp k i .dataError (List.replicate b.operand.length 0)
      (some (bitopFault o b .targetWord b.word)) := by
  simp only [State.bitopRead, h, ReadWord.bad_iff.mpr hbad, if_true]

/-- With a good target word the lane goes on with the new bytes (R82). -/
theorem State.bitopRead_goesOn (h : s.bitops[i].running = some b) (hgood : ws[b.word].cls ≠ .uncorrectable) :
    s.bitopRead k o i ws =
      (s.setBit i (s.bitops[i].keepOld (spanBytes (readBytes ws) b.first b.operand.length))).goOn k o.line
        (b.newBytes (readBytes ws)) ((lowestWord fun w => ws[w].bad && w != b.word).map (bitopFault o b .otherWord)) := by
  have hbad : ws[b.word].bad = false := Bool.eq_false_iff.mpr (mt ReadWord.bad_iff.mp hgood)
  simp only [State.bitopRead, h, hbad, Bool.false_eq_true, if_false]

/-- Outside RESTARTING the lane hands over its LINE-WRITE, and a bad word beside the target is logged (R82). -/
theorem State.bitopRead_writes (h : s.bitops[i].running = some b) (hgood : ws[b.word].cls ≠ .uncorrectable)
    (hgo : s.control.bridge ≠ .restarting) : s.bitopRead k o i ws =
      ((s.setBit i (s.bitops[i].keepOld (spanBytes (readBytes ws) b.first b.operand.length))).logFault?
        ((lowestWord fun w => ws[w].bad && w != b.word).map (bitopFault o b .otherWord))).handOver k
          (.lineWrite (lineWords (b.newBytes (readBytes ws)))) o.line :=
  (State.bitopRead_goesOn h hgood).trans (State.goOn_of_ne hgo)

/-- In RESTARTING the lane stops (R59). -/
theorem State.bitopRead_stops (h : s.bitops[i].running = some b) (hgood : ws[b.word].cls ≠ .uncorrectable)
    (hstop : s.control.bridge = .restarting) : s.bitopRead k o i ws =
      (s.setBit i (s.bitops[i].keepOld (spanBytes (readBytes ws) b.first b.operand.length))).setLane k
        (.busy .stopped) :=
  (State.bitopRead_goesOn h hgood).trans (State.goOn_restarting hstop)

theorem otherBad_eq_none (h : ∀ w : WordIx, ws[w].cls ≠ .uncorrectable) :
    lowestWord (fun w => ws[w].bad && w != b.word) = none :=
  lowestFin_none.mpr fun w => by rw [Bool.eq_false_iff.mpr (mt ReadWord.bad_iff.mp (h w)), Bool.false_and]

/-- The lowest UNCORRECTABLE word, when the target word is not one of them (R82). -/
theorem otherBad_eq_some {w : WordIx} (hgood : ws[b.word].cls ≠ .uncorrectable) (hb : ws[w].cls = .uncorrectable)
    (hlow : ∀ v : WordIx, v < w → ws[v].cls ≠ .uncorrectable) :
    lowestWord (fun w => ws[w].bad && w != b.word) = some w := by
  have hne : w ≠ b.word := fun hw => hgood (hw ▸ hb)
  refine lowestFin_some.mpr ⟨?_, fun v hv => ?_⟩
  · rw [ReadWord.bad_iff.mpr hb, Bool.true_and, bne_iff_ne]
    exact hne
  · rw [Bool.eq_false_iff.mpr (mt ReadWord.bad_iff.mp (hlow v hv)), Bool.false_and]

/-- With the line written the BITOP completes with OK and the old bytes its record kept (R82, R83). -/
theorem State.laneWritten_bitop (ho : s.laneOp k = some o) (hw : o.work = .bitop i)
    (h : s.bitops[i] = .inFlight b old ∨ s.bitops[i] = .orphaned b) : s.laneWritten k =
      let ended := ((s.removeLaneOp k).setBit i
        (if s.bitops[i] = .orphaned b then .free else .ready b .ok old)).setLane k .idle
      if s.bitops[i] = .orphaned b then ended.wake .bitFreed else ended := by
  have hdone : s.laneWritten k = s.completeBitOp k i .ok s.bitops[i].oldBytes none := by
    simp only [State.laneWritten, ho, hw]
  rw [hdone, State.completeBitOp_eq h, BitRec.complete_oldBytes h]
  rfl

end BitOpRead

/-- DONE of a LINE-WRITE: the port is IDLE with its failure count 0, and the lane learns that it has written (R109). -/
theorem exec_arrayDone_written {s : State} {words w : Vector CodedWord 4} {c : InProgress} {tm : Nat}
    (hp : s.port.condition = .issued c tm) (hc : c.cmd = .lineWrite w) : exec (.arrayDone words) s =
      .next ((({ s with port := { s.port with failures := 0 } }.setPort .idle).laneWritten c.lane).settle) := by
  simp only [exec, execArrayDone, State.arrayDone, hp, State.done, hc]

/-! ### The bytes written (R76) -/

section NewBytes
variable {b : BitReq} {old : LineBytes} {p : Fin 32}

theorem BitReq.newBytes_inside (h : b.first ≤ p.val ∧ p.val < b.first + b.operand.length) :
    (b.newBytes old)[p] = applyBits b.kind old[p] (b.operand.getD (p.val - b.first) 0) := by
  simp [BitReq.newBytes, h]

theorem BitReq.newBytes_outside (h : ¬(b.first ≤ p.val ∧ p.val < b.first + b.operand.length)) :
    (b.newBytes old)[p] = old[p] := by
  simp [BitReq.newBytes, h]

end NewBytes

/-- Settles O38: the lane's outcomes by the words read, the end of the write, and the bytes of the span bit by bit. -/
theorem bitOperationsChangeTheSpanOnly : Obligations.BitOperationsChangeTheSpanOnly := by
  refine ⟨fun s k o i b old ho hw hrec => ?_, fun b old p j hj => ⟨fun hin => ?_, BitReq.newBytes_outside⟩⟩
  · intro orphan completed
    have hrun := BitRec.running_of hrec
    refine ⟨fun ws => ?_, fun words c w tm hp hc hk => ?_⟩
    · intro bytes log kept writing
      rw [State.laneRead_bitop ho hw]
      refine ⟨fun hbad => ?_, fun hgo hgood => ?_, fun w hgo hgood hb hlow => ?_, fun hstop hgood => ?_⟩
      · rw [State.bitopRead_target hrun hbad, State.completeBitOp_eq hrec,
          BitRec.complete_of_running hrec, bitopFault_eq hw]
        rfl
      · rw [State.bitopRead_writes hrun (hgood _) hgo, State.setBit_keepOld hrec, otherBad_eq_none hgood]
        rfl
      · rw [State.bitopRead_writes hrun hgood hgo, State.setBit_keepOld hrec, otherBad_eq_some hgood hb hlow,
          Option.map_some, bitopFault_eq hw]
        rfl
      · rw [State.bitopRead_stops hrun hgood hstop, State.setBit_keepOld hrec]
        rfl
    · subst hk
      have hwritten := State.laneWritten_bitop
        (s := { s with port := { s.port with failures := 0 } }.setPort .idle) ho hw hrec
      rw [exec_arrayDone_written hp hc, hwritten]
      rfl
  · rw [BitReq.newBytes_inside hin]
    cases b.kind with
    | setBits => exact BitVec.getLsbD_or
    | clearBits => simp [applyBits, hj]
    | flipBits => simp [applyBits]

end Sys2Proof.Machine

/-! ## A failed drain: the entry HELD, its successor folded in (R39, R58, R89, R96-R98) -/

namespace Sys2Proof.Machine

/-! ### The lookups of a line after an entry changed (R18) -/

section Lookups
variable {b : CombineBuffer} {e : EntryIx} {L : Nat}

/-- An entry that is OPEN neither before nor after it is replaced changes no line's lookup of its OPEN entry. -/
theorem CombineBuffer.openEntry_put {x : Entry} (hs : b.entries[e].state ≠ .opened) (hx : x.state ≠ .opened) (L : Nat) :
    (b.put e x).openEntry L = b.openEntry L := by
  unfold CombineBuffer.openEntry CombineBuffer.entryOf
  refine congrArg (lowestFin 16) (funext fun j => ?_)
  rw [CombineBuffer.put_entry]
  split
  · next hj => subst hj; simp only [beq_eq_false_iff_ne.mpr hs, beq_eq_false_iff_ne.mpr hx, Bool.false_and]
  · rfl

/-- By R18 a predecessor is the one its line's lookup names. -/
theorem CombineBuffer.lineLaw.predecessor_eq (h : b.lineLaw) (hl : b.entries[e].line = some L)
    (hp : b.entries[e].state.isPredecessor = true) : b.predecessor L = some e := by
  refine lowestFin_of_least (Bool.and_eq_true_iff.mpr ⟨hp, beq_iff_eq.mpr hl⟩) fun j hj => ?_
  obtain ⟨hjpred, hjl⟩ := Bool.and_eq_true_iff.mp hj
  obtain ⟨-, hone, -⟩ := h e j (hl.trans (eq_of_beq hjl).symm)
  exact le_of_eq (hone hp hjpred)

/-- By R18 the line of a HELD entry has no OPEN entry. -/
theorem CombineBuffer.lineLaw.openEntry_none (h : b.lineLaw) (hl : b.entries[e].line = some L)
    (hs : b.entries[e].state = .held) : b.openEntry L = none := by
  refine Option.eq_none_iff_forall_ne_some.mpr fun f hf => ?_
  obtain ⟨ho, hfl⟩ := CombineBuffer.openEntry_spec hf
  obtain ⟨-, -, hnot⟩ := h f e (hfl.trans hl.symm)
  exact hnot ho hs

/-- The overlay of a line with a predecessor and no OPEN entry, position by position (R38). -/
theorem CombineBuffer.overlay_of_predecessor (hp : b.predecessor L = some e) (ho : b.openEntry L = none) (q : Fin 32) :
    (b.overlay L).1.getLsbD q = b.entries[e].valid.getLsbD q ∧
    (b.overlay L).2[q] = if b.entries[e].valid.getLsbD q then b.entries[e].data[q] else (Vector.replicate 32 0)[q] := by
  have hnone : (b.bytesOf none).1.getLsbD q = false := CombineBuffer.bytesOf_pos_false fun _ he => nomatch he
  rw [CombineBuffer.overlay_pos, CombineBuffer.overlay_byte, hp, ho, hnone, Bool.or_false, if_neg Bool.false_ne_true]
  exact ⟨rfl, rfl⟩

/-- The overlay of a line with a predecessor and an OPEN entry, position by position (R38). -/
theorem CombineBuffer.overlay_of_both {f : EntryIx} (hp : b.predecessor L = some e) (ho : b.openEntry L = some f)
    (q : Fin 32) :
    (b.overlay L).1.getLsbD q = (b.entries[e].valid.getLsbD q || b.entries[f].valid.getLsbD q) ∧
    (b.overlay L).2[q] = if b.entries[f].valid.getLsbD q then b.entries[f].data[q]
      else if b.entries[e].valid.getLsbD q then b.entries[e].data[q] else (Vector.replicate 32 0)[q] := by
  rw [CombineBuffer.overlay_pos, CombineBuffer.overlay_byte, hp, ho]
  exact ⟨rfl, rfl⟩

end Lookups

/-- The positions and the bytes of a HELD entry that took its successor's (R98). -/
theorem Entry.absorbing_get (x y : Entry) (q : Fin 32) :
    (y.absorbing x).valid.getLsbD q = (x.valid.getLsbD q || y.valid.getLsbD q) ∧
    (y.absorbing x).data[q] = if y.valid.getLsbD q then y.data[q] else x.data[q] :=
  ⟨BitVec.getLsbD_or, overlayBytes_get _ _ _ q⟩

/-! ### What a failed drain does to the masters (R89, R93, R96, R98) -/

/-- The entries of a set leave the barrier's wait set (R93). -/
def MasterCtx.without (gone : EntrySet) (c : MasterCtx) : MasterCtx :=
  { c with barrier := c.barrier.map fun b => { b with waitSet := b.waitSet &&& ~~~gone } }

/-- LINE-HELD recorded against each master of `hit`, and the entries of `gone` in no wait set any more. -/
def MasterCtx.lineHeld (hit : MasterSet) (gone : EntrySet) (m : MasterIx) (c : MasterCtx) : MasterCtx :=
  (if hit.getLsbD m then c.record .lineHeld else c).without gone

theorem State.mapMasters_mapMasters (s : State) (f g : MasterIx → MasterCtx → MasterCtx) :
    (s.mapMasters f).mapMasters g = s.mapMasters fun m c => g m (f m c) := by
  unfold State.mapMasters
  simp only [Fin.getElem_fin, Vector.getElem_ofFn]

theorem MasterCtx.without_without (c : MasterCtx) (g g' : EntrySet) :
    (c.without g).without g' = c.without (g' ||| g) := by
  obtain ⟨tags, barrier, deferred⟩ := c
  cases barrier with
  | none => rfl
  | some b =>
    simp only [MasterCtx.without, Option.map_some, BitVec.not_or, BitVec.and_assoc]
    rw [BitVec.and_comm (~~~g)]

/-- Two rounds of errors, the second against the masters that the first left out, are one round (R96, R98). -/
theorem MasterCtx.record_record (c : MasterCtx) (k : DeferredKind) (hit more : MasterSet) (m : MasterIx) :
    (if (more &&& ~~~hit).getLsbD m then (if hit.getLsbD m then c.record k else c).record k
      else if hit.getLsbD m then c.record k else c) =
    if (hit ||| more).getLsbD m then c.record k else c := by
  rw [BitVec.getLsbD_and, BitVec.getLsbD_not, BitVec.getLsbD_or, decide_eq_true m.isLt]
  cases hit.getLsbD m <;> cases more.getLsbD m <;> rfl

/-- The masters after a failed drain without a successor (R96). -/
theorem State.leaveWaitSets_recordErrors (s : State) (hit : MasterSet) (e : EntryIx) :
    (s.recordErrors hit .lineHeld).leaveWaitSets e = s.mapMasters (MasterCtx.lineHeld hit (BitVec.twoPow 16 e)) :=
  s.mapMasters_mapMasters _ _

/-- The masters after a failed drain with a successor (R96, R98). -/
theorem State.leaveWaitSets_recordErrors_twice (s : State) (hit more : MasterSet) (e f : EntryIx) :
    (((s.recordErrors hit .lineHeld).recordErrors (more &&& ~~~hit) .lineHeld).leaveWaitSets f).leaveWaitSets e =
      s.mapMasters (MasterCtx.lineHeld (hit ||| more) (BitVec.twoPow 16 e ||| BitVec.twoPow 16 f)) := by
  have hone (c : MasterCtx) (m : MasterIx) := c.record_record .lineHeld hit more m
  calc _ = s.mapMasters fun m c => ((if (more &&& ~~~hit).getLsbD m then
          (if hit.getLsbD m then c.record .lineHeld else c).record .lineHeld
        else if hit.getLsbD m then c.record .lineHeld else c).without (BitVec.twoPow 16 f)).without
          (BitVec.twoPow 16 e) := by
        rw [← State.mapMasters_mapMasters, ← State.mapMasters_mapMasters, ← State.mapMasters_mapMasters]
        rfl
    _ = _ := by
        simp only [hone, MasterCtx.without_without]
        rfl

/-! ### The failed drain in one piece (R96-R98) -/

theorem State.wake_wake (s : State) (w : Wake) : (s.wake w).wake w = s.wake w := by
  simp only [State.wake, Bool.or_assoc, Bool.or_self]

/-- A line became HELD: its entries' change is noted, and LINE-HELD logged and raised (R97, R138). -/
def State.reportHeld (s : State) (e : EntryIx) (L : Nat) (r : HeldReason) (op : OpKind × BitVec 16)
    (w : Option WordIx) : State :=
  ((s.wake (.entryChanged L)).logFault (lineHeldFault L e r op w)).raise .lineHeld

theorem State.reportHeld_wake (s : State) (e : EntryIx) (L : Nat) (r : HeldReason) (op : OpKind × BitVec 16)
    (w : Option WordIx) : (s.wake (.entryChanged L)).reportHeld e L r op w = s.reportHeld e L r op w := by
  rw [State.reportHeld, State.wake_wake]
  rfl

theorem Entry.hold_ne_opened (x : Entry) (r : HeldReason) : (x.hold r).state ≠ .opened := by
  simp [Entry.hold]

/-- A result for an entry that is not DRAINING, or has no line, has no effect (log entry 17). -/
theorem State.drainFails_of_not {s : State} {e : EntryIx} {r : HeldReason} {op : OpKind × BitVec 16} {w : Option WordIx}
    (h : s.buffer.entries[e].line = none ∨ s.buffer.entries[e].state ≠ .draining) : s.drainFails e r op w = s := by
  unfold State.drainFails
  dsimp only
  split
  · rfl
  · next L hl => exact if_neg (h.resolve_left (by rw [hl]; nofun))

section DrainFails
variable {s : State} {e f : EntryIx} {L : Nat} (hs : s.buffer.entries[e].state = .draining)
  (hl : s.buffer.entries[e].line = some L) (r : HeldReason) (op : OpKind × BitVec 16) (w : Option WordIx)
include hs hl

/-- A DRAINING entry that fails is made HELD, its errors are recorded and its successor is folded in (R96). -/
theorem State.drainFails_draining : s.drainFails e r op w =
    ((((((s.setEntry e (s.buffer.entries[e].hold r)).wake (.entryChanged L)).recordErrors
      s.buffer.entries[e].contributors .lineHeld).fold e L).leaveWaitSets e).logFault
        (lineHeldFault L e r op w)).raise .lineHeld := by
  unfold State.drainFails
  dsimp only
  split
  · next hn => exact absurd (hl.symm.trans hn) nofun
  · next L' hl' =>
    obtain rfl : L = L' := Option.some.inj (hl.symm.trans hl')
    exact if_pos hs

/-- Without an OPEN entry of the line (R96, R97). -/
theorem State.drainFails_alone (hf : s.buffer.openEntry L = none) : s.drainFails e r op w =
    (State.mapMasters { s with buffer := s.buffer.put e (s.buffer.entries[e].hold r) }
      (MasterCtx.lineHeld s.buffer.entries[e].contributors (BitVec.twoPow 16 e))).reportHeld e L r op w := by
  have hopen : (s.buffer.put e (s.buffer.entries[e].hold r)).openEntry L = none :=
    (CombineBuffer.openEntry_put (by rw [hs]; decide) (Entry.hold_ne_opened _ r) L).trans hf
  have hfold : (((s.setEntry e (s.buffer.entries[e].hold r)).wake (.entryChanged L)).recordErrors
      s.buffer.entries[e].contributors .lineHeld).fold e L = ((s.setEntry e (s.buffer.entries[e].hold r)).wake
        (.entryChanged L)).recordErrors s.buffer.entries[e].contributors .lineHeld := by
    unfold State.fold
    split
    · rfl
    · next f hf' => exact absurd (hopen.symm.trans hf') nofun
  rw [State.drainFails_draining hs hl, hfold, State.leaveWaitSets_recordErrors]
  rfl

/-- With an OPEN entry of the line, which is folded in (R96-R98). -/
theorem State.drainFails_folds (hf : s.buffer.openEntry L = some f) : s.drainFails e r op w =
    (State.mapMasters { s with
        buffer := (s.buffer.put e (s.buffer.entries[f].absorbing (s.buffer.entries[e].hold r))).retire f Entry.free }
      (MasterCtx.lineHeld (s.buffer.entries[e].contributors ||| s.buffer.entries[f].contributors)
        (BitVec.twoPow 16 e ||| BitVec.twoPow 16 f))).reportHeld e L r op w := by
  have hopen : (s.buffer.put e (s.buffer.entries[e].hold r)).openEntry L = some f :=
    (CombineBuffer.openEntry_put (by rw [hs]; decide) (Entry.hold_ne_opened _ r) L).trans hf
  obtain ⟨hfe, hkeep⟩ := CombineBuffer.openEntry_of_set (b := s.buffer) rfl (Entry.hold_ne_opened _ r) hopen
  have hself : (s.buffer.put e (s.buffer.entries[e].hold r)).entries[e] = s.buffer.entries[e].hold r :=
    (s.buffer.put_entry e e _).trans (if_pos rfl)
  have hfold (t : State) (ht : t.buffer = s.buffer.put e (s.buffer.entries[e].hold r)) : t.fold e L =
      (((t.setEntry e (s.buffer.entries[f].absorbing (s.buffer.entries[e].hold r))).recordErrors
        (s.buffer.entries[f].contributors &&& ~~~s.buffer.entries[e].contributors) .lineHeld).freeEntry f L) := by
    unfold State.fold
    simp only [ht, hopen, hself, hkeep]
    rfl
  have hput : (s.buffer.put e (s.buffer.entries[e].hold r)).put e
      (s.buffer.entries[f].absorbing (s.buffer.entries[e].hold r)) =
        s.buffer.put e (s.buffer.entries[f].absorbing (s.buffer.entries[e].hold r)) := by
    simp only [CombineBuffer.put, Vector.set_set]
  rw [State.drainFails_draining hs hl, hfold _ rfl, ← State.reportHeld_wake, ← hput,
    ← State.leaveWaitSets_recordErrors_twice]
  rfl

/-- The entry after its drain failed without a successor. -/
theorem State.drainFails_entry_alone (hf : s.buffer.openEntry L = none) :
    (s.drainFails e r op w).buffer.entries[e] = s.buffer.entries[e].hold r := by
  rw [State.drainFails_alone hs hl r op w hf]
  exact (s.buffer.put_entry e e _).trans (if_pos rfl)

/-- The entry after its drain failed and its successor was folded in. -/
theorem State.drainFails_entry_folds (hf : s.buffer.openEntry L = some f) :
    (s.drainFails e r op w).buffer.entries[e] = s.buffer.entries[f].absorbing (s.buffer.entries[e].hold r) := by
  have hfe : f ≠ e := by
    rintro rfl
    rw [(CombineBuffer.openEntry_spec hf).1] at hs
    exact EntryState.noConfusion hs
  rw [State.drainFails_folds hs hl r op w hf]
  exact (CombineBuffer.retire_entry _ f e _).trans ((if_neg hfe).trans ((s.buffer.put_entry e e _).trans (if_pos rfl)))

theorem State.drainFails_held : (s.drainFails e r op w).buffer.entries[e].state = .held ∧
    (s.drainFails e r op w).buffer.entries[e].heldReason = some r ∧
    (s.drainFails e r op w).buffer.entries[e].line = some L := by
  cases hf : s.buffer.openEntry L with
  | none => rw [State.drainFails_entry_alone hs hl r op w hf]; exact ⟨rfl, rfl, hl⟩
  | some f => rw [State.drainFails_entry_folds hs hl r op w hf]; exact ⟨rfl, rfl, hl⟩

/-- The overlay of the line is that of the HELD entry, which took its successor's bytes over its own (R39, R98). -/
theorem State.drainFails_overlay (hlaw : s.buffer.lineLaw) (q : Fin 32) :
    (s.drainFails e r op w).buffer.openEntry L = none ∧
    ((s.drainFails e r op w).buffer.overlay L).1.getLsbD q = (s.buffer.overlay L).1.getLsbD q ∧
    ((s.drainFails e r op w).buffer.overlay L).2[q] = (s.buffer.overlay L).2[q] := by
  obtain ⟨hheld, -, hline⟩ := State.drainFails_held hs hl r op w
  have hlaw' := (s.drainFails_bufferMove e r op w).lineLaw hlaw
  have hopen := hlaw'.openEntry_none hline hheld
  have hpred := hlaw.predecessor_eq hl (by rw [hs]; rfl)
  have hpred' := hlaw'.predecessor_eq hline (by rw [hheld]; rfl)
  obtain ⟨hpos', hbyte'⟩ := CombineBuffer.overlay_of_predecessor hpred' hopen q
  refine ⟨hopen, ?_⟩
  rw [hpos', hbyte']
  cases hf : s.buffer.openEntry L with
  | none =>
    obtain ⟨hpos, hbyte⟩ := CombineBuffer.overlay_of_predecessor hpred hf q
    rw [hpos, hbyte, State.drainFails_entry_alone hs hl r op w hf]
    exact ⟨rfl, rfl⟩
  | some f =>
    obtain ⟨hpos, hbyte⟩ := CombineBuffer.overlay_of_both hpred hf q
    obtain ⟨hvalid, hdata⟩ := Entry.absorbing_get (s.buffer.entries[e].hold r) s.buffer.entries[f] q
    rw [hpos, hbyte, State.drainFails_entry_folds hs hl r op w hf, hvalid, hdata]
    refine ⟨rfl, ?_⟩
    cases s.buffer.entries[f].valid.getLsbD q with
    | false => rw [Bool.or_false]; rfl
    | true => rw [Bool.or_true]; rfl

end DrainFails

/-- What a failed drain does to one master, written out (R89, R93, R96). -/
theorem MasterCtx.lineHeld_eq (hit : MasterSet) (gone : EntrySet) (m : MasterIx) (c : MasterCtx) :
    c.lineHeld hit gone m = { c with
      deferred := if hit.getLsbD m then (match c.deferred with
        | none => some ⟨.lineHeld, 0⟩
        | some d => some { d with further := min 255 (d.further + 1) }) else c.deferred
      barrier := c.barrier.map fun b => { b with waitSet := b.waitSet &&& ~~~gone } } := by
  obtain ⟨tags, barrier, deferred⟩ := c
  unfold MasterCtx.lineHeld
  split
  · cases deferred <;> rfl
  · rfl

/-- Settles O31: the failed drain in one piece, alone and with a successor; then the overlay is the HELD entry's. -/
theorem foldingKeepsTheOverlay : Obligations.FoldingKeepsTheOverlay := by
  refine ⟨fun s e L r op w hs hl => ?_, fun s e L r op w q hlaw hs hl => ?_⟩
  · intro x held errors reported
    have herrors (hit : MasterSet) (gone : EntrySet) :
        errors hit gone = (s.mapMasters (MasterCtx.lineHeld hit gone)).masters :=
      congrArg Vector.ofFn (funext fun m => (s.masters[m].lineHeld_eq hit gone m).symm)
    refine ⟨fun hf => ?_, fun f hf => ?_⟩
    · rw [State.drainFails_alone hs hl r op w hf, herrors]
      rfl
    · intro y
      rw [State.drainFails_folds hs hl r op w hf, herrors]
      rfl
  · obtain ⟨hheld, hreason, -⟩ := State.drainFails_held hs hl r op w
    obtain ⟨hopen, -, hbyte⟩ := State.drainFails_overlay hs hl r op w hlaw q
    refine ⟨hheld, hreason, hopen, ?_, fun _ => hbyte⟩
    refine BitVec.eq_of_getLsbD_eq fun i hi => ?_
    obtain ⟨-, hpos, -⟩ := State.drainFails_overlay hs hl r op w hlaw ⟨i, hi⟩
    exact hpos

end Sys2Proof.Machine

/-! ## RELEASE of a held line (R101-R105) -/

namespace Sys2Proof.Machine

theorem BridgeState.releases_iff {b : BridgeState} :
    b.releases = true ↔ b = .run ∨ b = .quiescing ∨ b = .quiesced := by
  cases b <;> simp [BridgeState.releases]

section Release
variable {s : State} {e : EntryIx} {L : Nat}

/-- DISCARD frees the entry and takes it out of every wait set (R102). -/
theorem State.discard_eq (hl : s.buffer.entries[e].line = some L) : s.discard e =
    State.wake (State.wake { s with
      buffer := s.buffer.retire e Entry.free
      masters := s.masters.map fun (c : MasterCtx) => { c with
        barrier := c.barrier.map fun (w : Barrier) => { w with waitSet := removeBit e w.waitSet } } }
          (.entryChanged L)) (.overlayLost L) := by
  have hmasters : (s.masters.map fun (c : MasterCtx) => { c with
      barrier := c.barrier.map fun (w : Barrier) => { w with waitSet := removeBit e w.waitSet } }) =
      (s.leaveWaitSets e).masters := by
    ext1
    simp
  simp only [State.discard, hl, hmasters]
  rfl

/-- RETRY and FORCE commit the entry again, and a QUIESCED bridge goes back to QUIESCING (R103-R105). -/
theorem State.recommit_eq (hl : s.buffer.entries[e].line = some L) (k : DrainKind) : (s.recommit e k).backToQuiescing =
    State.wake { s with
      control := if s.control.bridge = .quiesced then { s.control with bridge := .quiescing } else s.control
      buffer := s.buffer.put e s.buffer.entries[e].recommit
      opList := ⟨s.opList.ops ++ [⟨.drain k e, L, s.opList.counter, .queued⟩], s.opList.counter + 1⟩ }
        (.entryChanged L) := by
  have hcommit : s.recommit e k = ((s.setEntry e s.buffer.entries[e].recommit).appendOp (.drain k e) L).wake
      (.entryChanged L) := by
    unfold State.recommit
    dsimp only
    split
    · next hn => exact absurd (hl.symm.trans hn) nofun
    · next L' hl' =>
      obtain rfl : L = L' := Option.some.inj (hl.symm.trans hl')
      rfl
  rw [hcommit]
  by_cases hq : s.control.bridge = .quiesced
  · rw [if_pos hq]
    exact if_pos hq
  · rw [if_neg hq]
    exact if_neg hq

end Release

/-- What RELEASE of a HELD entry in a state that accepts it answers (R101). -/
theorem State.mgmtRelease_next {s : State} {i : Byte} {e : EntryIx} {f : State → EntryIx → State}
    (hi : i.toNat = e.val) (hb : s.control.bridge.releases = true) (hs : s.buffer.entries[e].state = .held) :
    (.next (s.mgmtRelease i.toNat (some f)).replied : Host.Outcome State Fault Refusal) =
      .next ((f s e).reply .ok []) := by
  rw [hi, State.mgmtRelease_held hb hs, MgmtResult.replied_okay]

/-- The three RELEASE commands are RELEASE with an action. -/
theorem exec_release {c : Instr} {i : Byte} (hc : c = .releaseDiscard i ∨ c = .releaseRetry i ∨ c = .releaseForce i)
    (s : State) : ∃ f, exec c s = .next (s.mgmtRelease i.toNat (some f)).replied := by
  rcases hc with rfl | rfl | rfl
  · exact ⟨State.releaseDiscard, rfl⟩
  · exact ⟨State.releaseRetry, rfl⟩
  · exact ⟨State.releaseForce, rfl⟩

/-- Settles O54: the three actions on a HELD entry, then the checks in their order. -/
theorem releasesActOnTheHeldEntry : Obligations.ReleasesActOnTheHeldEntry := by
  intro s i
  dsimp only
  rw [← BridgeState.releases_iff]
  refine ⟨fun e L hi hb hs hl => ⟨?_, ?_, ?_⟩, fun c hc => ?_⟩
  · refine (State.mgmtRelease_next hi hb hs).trans ?_
    rw [State.releaseDiscard, State.discard_eq hl]
    rfl
  · refine (State.mgmtRelease_next hi hb hs).trans ?_
    rw [State.releaseRetry, State.recommit_eq hl]
    rfl
  · refine (State.mgmtRelease_next hi hb hs).trans ?_
    rw [State.releaseForce, State.recommit_eq hl]
    rfl
  · obtain ⟨f, hf⟩ := exec_release hc s
    rw [hf]
    refine ⟨fun hb => ?_, fun hb hi => ?_, fun e hb hi hs => ?_⟩
    · rw [State.mgmtRelease_badState (Bool.eq_false_iff.mpr hb), MgmtResult.replied_refused]
    · rw [State.mgmtRelease_badIndex hb hi, MgmtResult.replied_refused]
    · rw [hi, State.mgmtRelease_notHeld hb hs, MgmtResult.replied_refused]

end Sys2Proof.Machine

/-! ## A BARRIER at the head (R31, R90-R92, R139, R140) -/

namespace Sys2Proof.Machine

/-- A set grown entry by entry holds what it held and the entries that pass the test. -/
theorem getLsbD_foldl_insertBit {p : EntryIx → Bool} (l : List EntryIx) (v : EntrySet) (e : EntryIx) :
    (l.foldl (fun set i => if p i then insertBit i set else set) v).getLsbD e = true ↔
      v.getLsbD e = true ∨ (e ∈ l ∧ p e = true) := by
  induction l generalizing v with
  | nil => simp
  | cons i l ih =>
    rw [List.foldl_cons, ih, List.mem_cons]
    have hstep : (if p i then insertBit i v else v).getLsbD e = true ↔ v.getLsbD e = true ∨ (e = i ∧ p e = true) := by
      by_cases hp : p i = true
      · rw [if_pos hp, getLsbD_insertBit, decide_eq_true e.isLt, Bool.true_and, Bool.or_eq_true, decide_eq_true_eq,
          ← Fin.ext_iff]
        exact or_congr_right ⟨fun h => ⟨h.symm, h ▸ hp⟩, fun h => h.1.symm⟩
      · rw [if_neg hp]
        exact ⟨.inl, fun h => h.elim id fun g => absurd (g.1 ▸ g.2) hp⟩
    rw [hstep, or_assoc, or_and_right]

theorem CombineBuffer.mem_waitSet_iff {b : CombineBuffer} {m : MasterIx} {e : EntryIx} :
    (b.waitSet m).getLsbD e = true ↔ b.waitsFor m e = true := by
  rw [CombineBuffer.waitSet, getLsbD_foldl_insertBit]
  simp

theorem EntryState.onItsWay_iff {st : EntryState} :
    st.onItsWay = true ↔ st = .opened ∨ st = .committed ∨ st = .draining := by
  cases st <;> simp [EntryState.onItsWay]

theorem CombineBuffer.waitsFor_iff {b : CombineBuffer} {m : MasterIx} {e : EntryIx} :
    b.waitsFor m e = true ↔ b.entries[e].state.onItsWay = true ∧ b.entries[e].contributors.getLsbD m = true :=
  Bool.and_eq_true_iff

section HeadBarrier
variable {s : State} {rest : List Request} {m : MasterIx} {t : Tag}

/-- A BARRIER at the head in RUN whose tag is not in use: refused with BUSY when its master has a barrier, and otherwise
offered (R91, R139). -/
theorem exec_headOffer_barrier (hi : s.upstream.intake = .barrier m t :: rest) (hb : s.upstream.busrst = false)
    (hr : s.control.bridge = .run) (ht : s.masters[m].tags.getLsbD t = false) :
    exec .headOffer s = .next (if s.masters[m].barrier = none then s.offerBarrier m t
      else s.refuse m t none .barrier .busy .barrier).settle := by
  have hex : s.examinable = true := by simp [State.examinable, hr, hb]
  have htag : s.tagHeld m t = false := ht
  simp only [exec, execHeadOffer, hex, hi, List.isEmpty_cons, Bool.not_false, Bool.and_self, if_true, State.offerHead,
    State.examineBarrier, hr, BridgeState.headRefusal, htag, Bool.false_eq_true, if_false]
  cases hbar : s.masters[m].barrier with
  | none => rfl
  | some b => rfl

/-- An empty wait set, with a slot available: answered at once, the deferred error reported and removed (R92). -/
theorem State.offerBarrier_answers (hi : s.upstream.intake = .barrier m t :: rest) (hw : s.buffer.waitSet m = 0)
    (hslot : s.upstream.responses.length < 16) : s.offerBarrier m t = { s with
      upstream := { s.upstream with
        intake := rest, headWait := .none, offerDue := !rest.isEmpty
        responses := s.upstream.responses ++ [.barrierDone m t s.masters[m].deferred] }
      masters := s.masters.set m { tags := insertBit t s.masters[m].tags, barrier := none, deferred := none } } := by
  have hs : s.slotAvailable = true := decide_eq_true hslot
  have hintake : ((s.answerBarrier m t).addTag m t).upstream.intake = .barrier m t :: rest := hi
  have hmasters : ((s.answerBarrier m t).addTag m t).masters =
      s.masters.set m { tags := insertBit t s.masters[m].tags, barrier := none, deferred := none } := by
    simp [State.answerBarrier]
  simp only [State.offerBarrier, hw, hs, if_true, State.popHead_of_cons hintake, hmasters]
  rfl

theorem State.offerBarrier_waits (hw : s.buffer.waitSet m = 0) (hfull : 16 ≤ s.upstream.responses.length) :
    s.offerBarrier m t = s.headWaits .barrier := by
  have hs : s.slotAvailable = false := decide_eq_false (Nat.not_lt.mpr hfull)
  simp only [State.offerBarrier, hw, hs, if_true, Bool.false_eq_true, if_false]

/-- A wait set that is not empty: the barrier is recorded, and the OPEN entries it names are close-requested (R91). -/
theorem State.offerBarrier_records (hw : s.buffer.waitSet m ≠ 0) : s.offerBarrier m t =
    (((s.updateMaster m fun c => { c with barrier := some ⟨t, s.buffer.waitSet m⟩ }).closeAll
      (s.buffer.openOrder.filter fun e => (s.buffer.waitSet m).getLsbD e)).addTag m t).popHead := if_neg hw

end HeadBarrier

/-- Settles O26: refused, answered, left waiting or recorded; and the wait set entry by entry. -/
theorem barriersAreAnsweredOrRecorded : Obligations.BarriersAreAnsweredOrRecorded := by
  refine ⟨fun s rest m t hi hb hr ht => ?_, fun b m e => ?_⟩
  · intro w
    rw [exec_headOffer_barrier hi hb hr ht]
    refine ⟨fun hbar hslot => ?_, fun hbar hw hslot => ?_, fun h hfull => ?_, fun hbar hw => ?_⟩
    · rw [if_neg (Option.isSome_iff_ne_none.mp hbar), State.refuse_of_slot hi hslot]
      rfl
    · rw [if_pos hbar, State.offerBarrier_answers hi hw hslot]
    · by_cases hbar : s.masters[m].barrier = none
      · have hw : w = 0 := h.resolve_left (by rw [hbar]; decide)
        rw [if_pos hbar, State.offerBarrier_waits hw hfull]
        rfl
      · rw [if_neg hbar, State.refuse_of_full hfull]
        rfl
    · rw [if_pos hbar, State.offerBarrier_records hw]
      rfl
  · rw [CombineBuffer.mem_waitSet_iff, CombineBuffer.waitsFor_iff, EntryState.onItsWay_iff]

end Sys2Proof.Machine

/-! ## Every step keeps the law of the wait sets (R93) -/

namespace Sys2Proof.Machine

/-! ### Entries that barriers may wait for -/

section WaitsFor
variable {b b' : CombineBuffer} {m : MasterIx} {e j : EntryIx} {x : Entry}

/-- The entries other than the one replaced are waited for as before. -/
theorem CombineBuffer.waitsFor_of_set_ne (hb : b'.entries = b.entries.set e x) (hj : e ≠ j) :
    b'.waitsFor m j = b.waitsFor m j := by
  have hkeep : b'.entries[j] = b.entries[j] := by rw [hb, getElem_set_fin, if_neg hj]
  rw [CombineBuffer.waitsFor, hkeep]
  rfl

/-- An entry replaced by one that is still on its way, with the contributors it had and perhaps more. -/
theorem CombineBuffer.waitsFor_of_set (hb : b'.entries = b.entries.set e x)
    (hx : b.entries[e].state.onItsWay = true → x.state.onItsWay = true ∧
      ∀ m : MasterIx, b.entries[e].contributors.getLsbD m = true → x.contributors.getLsbD m = true)
    (h : b.waitsFor m j = true) : b'.waitsFor m j = true := by
  by_cases hj : e = j
  · subst hj
    obtain ⟨hway, hmem⟩ := CombineBuffer.waitsFor_iff.mp h
    have hself : b'.entries[e] = x := by rw [hb, getElem_set_fin, if_pos rfl]
    rw [CombineBuffer.waitsFor_iff, hself]
    obtain ⟨hway', hmasters⟩ := hx hway
    exact ⟨hway', hmasters m hmem⟩
  · rwa [CombineBuffer.waitsFor_of_set_ne hb hj]

end WaitsFor

theorem getLsbD_insertBit_of {n : Nat} {v : BitVec n} {i j : Nat} (h : v.getLsbD j = true) :
    (insertBit i v).getLsbD j = true := by
  rw [getLsbD_insertBit, h, Bool.true_or]

theorem ne_of_not_twoPow {e j : EntryIx} (h : (BitVec.twoPow 16 e).getLsbD j = false) : e ≠ j := by
  rintro rfl
  simp at h

/-! ### How the law passes from a state to the next -/

section Passes
variable {s t : State}

/-- No barrier is new, and every entry that could be waited for still can. -/
theorem State.waitSetLaw.of_kept (h : s.waitSetLaw)
    (hm : ∀ (m : MasterIx) (b : Barrier), t.masters[m].barrier = some b → s.masters[m].barrier = some b)
    (hb : ∀ (m : MasterIx) (e : EntryIx), s.buffer.waitsFor m e = true → t.buffer.waitsFor m e = true) :
    t.waitSetLaw :=
  fun m e b hbar he => hb m e (h m e b (hm m b hbar) he)

/-- The masters and the buffer are the same. -/
theorem State.waitSetLaw.of_eq (h : s.waitSetLaw) (hm : t.masters = s.masters) (hb : t.buffer = s.buffer) :
    t.waitSetLaw :=
  h.of_kept (fun _ _ hbar => by rwa [hm] at hbar) (fun _ _ he => by rwa [hb])

/-- One entry is replaced, still on its way if it was, and no contributor is lost. -/
theorem State.waitSetLaw.of_set (h : s.waitSetLaw) {e : EntryIx} {x : Entry} (hm : t.masters = s.masters)
    (hb : t.buffer.entries = s.buffer.entries.set e x)
    (hx : s.buffer.entries[e].state.onItsWay = true → x.state.onItsWay = true ∧
      ∀ m : MasterIx, s.buffer.entries[e].contributors.getLsbD m = true → x.contributors.getLsbD m = true) :
    t.waitSetLaw :=
  h.of_kept (fun _ _ hbar => by rwa [hm] at hbar) (fun _ _ => CombineBuffer.waitsFor_of_set hb hx)

/-- The entries of a set leave every wait set, and every other entry is waited for as before. -/
theorem State.waitSetLaw.of_gone (h : s.waitSetLaw) (gone : EntrySet)
    (hm : ∀ m : MasterIx, t.masters[m].barrier = (s.masters[m].without gone).barrier)
    (hb : ∀ (m : MasterIx) (e : EntryIx), gone.getLsbD e = false → t.buffer.waitsFor m e = s.buffer.waitsFor m e) :
    t.waitSetLaw := by
  intro m e b hbar he
  obtain ⟨b', hbar', rfl⟩ := Option.map_eq_some_iff.mp ((hm m).symm.trans hbar)
  simp only [BitVec.getLsbD_and, BitVec.getLsbD_not, Bool.and_eq_true, Bool.not_eq_true'] at he
  obtain ⟨hmem, -, hnot⟩ := he
  rw [hb m e hnot]
  exact h m e b' hbar' hmem

theorem State.waitSetLaw_of_none (hm : ∀ m : MasterIx, t.masters[m].barrier = none) : t.waitSetLaw :=
  fun m _ _ hbar => absurd ((hm m).symm.trans hbar) nofun

end Passes

/-! ### The masters after the operations that leave them alone -/

section Masters
variable (s : State)

theorem State.logFault?_masters (f : Option FaultRecord) : (s.logFault? f).masters = s.masters := by
  cases f <;> rfl

theorem State.attachFill_masters (r : ReadIx) (L : Nat) : (s.attachFill r L).masters = s.masters := by
  unfold State.attachFill
  split
  · split <;> rfl
  · rfl

theorem State.placeRead_masters (i : ReadIx) : (s.placeRead i).masters = s.masters := by
  unfold State.placeRead
  split <;> rfl

theorem State.placeBit_masters (i : BitIx) : (s.placeBit i).masters = s.masters := by
  unfold State.placeBit
  split <;> rfl

theorem State.issue_masters : s.issue.masters = s.masters := by
  unfold State.issue
  split <;> rfl

theorem State.goOn_masters (k : LaneIx) (L : Nat) (bytes : LineBytes) (f : Option FaultRecord) :
    (s.goOn k L bytes f).masters = s.masters := by
  unfold State.goOn
  split
  · rfl
  · exact s.logFault?_masters f

theorem State.answerReaders_masters (readers : List ReadIx) (f : ReadReq → RecordStatus × List Byte) :
    (s.answerReaders readers f).masters = s.masters := by
  unfold State.answerReaders
  dsimp only
  split <;> rfl

theorem State.completeBitOp_masters (k : LaneIx) (i : BitIx) (st : RecordStatus) (d : List Byte)
    (f : Option FaultRecord) : (s.completeBitOp k i st d f).masters = s.masters := by
  unfold State.completeBitOp
  dsimp only
  rw [State.setLane_masters, State.logFault?_masters]
  split <;> rfl

theorem State.completeScrub_masters (k : LaneIx) (f : Option FaultRecord) :
    (s.completeScrub k f).masters = s.masters :=
  (s.removeLaneOp k).logFault?_masters f

theorem State.advanceScrub_masters : s.advanceScrub.masters = s.masters := by
  unfold State.advanceScrub
  split <;> rfl

theorem State.backToQuiescing_masters : s.backToQuiescing.masters = s.masters := by
  unfold State.backToQuiescing
  split <;> rfl

theorem State.mapMasters_get (f : MasterIx → MasterCtx → MasterCtx) (m : MasterIx) :
    (s.mapMasters f).masters[m] = f m s.masters[m] := by
  simp

end Masters

/-! ### The law after each operation that moves an entry or a barrier -/

section Operations
variable {s : State} (h : s.waitSetLaw)
include h

/-- A master's context changed, its barrier at most removed. -/
theorem State.waitSetLaw.updateMaster {m : MasterIx} {f : MasterCtx → MasterCtx}
    (hf : ∀ b, (f s.masters[m]).barrier = some b → s.masters[m].barrier = some b) :
    (s.updateMaster m f).waitSetLaw := by
  refine h.of_kept (fun i b hbar => ?_) (fun _ _ he => he)
  rw [State.updateMaster_masters, getElem_set_fin] at hbar
  split at hbar
  · next hi => exact hi ▸ hf b hbar
  · exact hbar

/-- A barrier recorded with the wait set formed now (R91). -/
theorem State.waitSetLaw.takesBarrier (m : MasterIx) (t : Tag) :
    (s.updateMaster m fun c => { c with barrier := some ⟨t, s.buffer.waitSet m⟩ }).waitSetLaw := by
  intro i e b hbar he
  rw [State.updateMaster_masters, getElem_set_fin] at hbar
  split at hbar
  · next hi =>
    obtain rfl := Option.some.inj hbar
    subst hi
    exact CombineBuffer.mem_waitSet_iff.mp he
  · exact h i e b hbar he

/-- An entry becomes FREE and leaves every wait set (R35, R93, R102). -/
theorem State.waitSetLaw.freeEntry (e : EntryIx) (L : Nat) : (s.freeEntry e L).waitSetLaw :=
  h.of_gone (BitVec.twoPow 16 e)
    (fun m => congrArg MasterCtx.barrier (s.mapMasters_get (fun _ c => c.without (BitVec.twoPow 16 e)) m))
    (fun _ _ hnot => CombineBuffer.waitsFor_of_set_ne rfl (ne_of_not_twoPow hnot))

theorem State.waitSetLaw.commit (e : EntryIx) (L : Nat) : (s.commit e L).waitSetLaw :=
  h.of_set (s.commit_masters e L) rfl fun _ => ⟨rfl, fun _ hm => hm⟩

theorem State.waitSetLaw.commitSuccessor (L : Nat) : (s.commitSuccessor L).waitSetLaw := by
  unfold State.commitSuccessor
  split
  · split
    · exact h.commit _ L
    · exact h
  · exact h

theorem State.waitSetLaw.discard (e : EntryIx) : (s.discard e).waitSetLaw := by
  unfold State.discard
  split
  · exact h
  · next L _ => exact h.freeEntry e L

theorem State.waitSetLaw.recommit (e : EntryIx) (k : DrainKind) : (s.recommit e k).waitSetLaw := by
  unfold State.recommit
  dsimp only
  split
  · exact h
  · exact h.of_set (x := s.buffer.entries[e].recommit) rfl rfl fun _ => ⟨rfl, fun _ hm => hm⟩

/-- A dispatch moves an entry from COMMITTED to DRAINING (R34). -/
theorem State.waitSetLaw.startWork (w : Work) : (s.startWork w).waitSetLaw := by
  cases w with
  | drain d e =>
    simp only [State.startWork, State.startDrain]
    split
    · split
      · exact h.of_set (x := s.buffer.entries[e].start) rfl rfl fun _ => ⟨rfl, fun _ hm => hm⟩
      · exact h
    · exact h
  | bitop i =>
    simp only [State.startWork, State.startBitOp]
    split <;> exact h
  | fill readers => exact h
  | scrub => exact h

theorem State.waitSetLaw.takeOp (k : LaneIx) (i : Nat) : (s.takeOp k i).waitSetLaw := by
  unfold State.takeOp
  split
  · exact h
  · next o _ => exact State.waitSetLaw.startWork (s := { s with opList := s.opList.take i k }) h o.work

/-- A drain that succeeds frees its entry, and commits a successor that waits (R35). -/
theorem State.waitSetLaw.drainSucceeds (e : EntryIx) : (s.drainSucceeds e).waitSetLaw := by
  unfold State.drainSucceeds
  dsimp only
  split
  · exact h
  · next L _ =>
    split
    · have hfree : ((s.freeEntry e L).wake (.overlayLost L)).waitSetLaw := h.freeEntry e L
      exact hfree.commitSuccessor L
    · exact h

/-- A drain that fails: its entry, HELD, and the successor folded in leave every wait set (R96, R98). -/
theorem State.waitSetLaw.drainFails (e : EntryIx) (r : HeldReason) (op : OpKind × BitVec 16) (w : Option WordIx) :
    (s.drainFails e r op w).waitSetLaw := by
  have hbarrier (hit : MasterSet) (gone : EntrySet) (b : CombineBuffer) (m : MasterIx) :
      (State.mapMasters { s with buffer := b } (MasterCtx.lineHeld hit gone)).masters[m].barrier =
        (s.masters[m].without gone).barrier := by
    rw [State.mapMasters_get, MasterCtx.lineHeld_eq]
    rfl
  cases hl : s.buffer.entries[e].line with
  | none => rwa [State.drainFails_of_not (.inl hl)]
  | some L =>
    by_cases hs : s.buffer.entries[e].state = .draining
    · cases hf : s.buffer.openEntry L with
      | none =>
        rw [State.drainFails_alone hs hl r op w hf]
        exact h.of_gone _ (hbarrier _ _ _)
          (fun _ _ hnot => CombineBuffer.waitsFor_of_set_ne rfl (ne_of_not_twoPow hnot))
      | some f =>
        rw [State.drainFails_folds hs hl r op w hf]
        refine h.of_gone _ (hbarrier _ _ _) (fun m j hnot => ?_)
        obtain ⟨hnote, hnotf⟩ := Bool.or_eq_false_iff.mp (BitVec.getLsbD_or.symm.trans hnot)
        exact (CombineBuffer.waitsFor_of_set_ne rfl (ne_of_not_twoPow hnotf)).trans
          (CombineBuffer.waitsFor_of_set_ne (b' := s.buffer.put e _) rfl (ne_of_not_twoPow hnote))
    · rwa [State.drainFails_of_not (.inr hs)]

theorem State.waitSetLaw.completeDrain (k : LaneIx) (o : Operation) (e : EntryIx) (r : Option HeldReason)
    (w : Option WordIx) : (s.completeDrain k o e r w).waitSetLaw := by
  have hlist : (s.removeLaneOp k).waitSetLaw := h
  cases r with
  | none => exact hlist.drainSucceeds e
  | some r => exact hlist.drainFails e r o.label w

/-- The timers that run change no entry's state or contributors. -/
theorem State.waitSetLaw.runTimers : s.runTimers.waitSetLaw := by
  refine h.of_kept (fun _ _ hbar => hbar) (fun m e he => ?_)
  rw [CombineBuffer.waitsFor, State.runTimers_entry]
  exact he

end Operations

/-! ### Every change -/

/-- Every change keeps R93: a barrier is recorded with entries on their way, and an entry that becomes FREE or HELD
leaves the wait sets. -/
theorem Change.waitSetLaw {s t : State} (hc : Change s t) (h : s.waitSetLaw) : t.waitSetLaw := by
  cases hc with
  | takesBarrier m t _ _ => exact h.takesBarrier m t
  | answersBarrier m t _ => exact State.waitSetLaw.updateMaster (s := s.placeResponse _) h nofun
  | tagJoins m t | tagLeaves m t => exact h.updateMaster fun _ hb => hb
  | records m k => exact h.updateMaster fun _ hb => hb
  | stores e L p bytes m _ _ _ _ => exact h.of_set rfl rfl fun hway => ⟨hway, fun _ => getLsbD_insertBit_of⟩
  | allocates e L p bytes m _ _ _ _ _ hf =>
    refine h.of_set rfl rfl fun hway => ?_
    rw [CombineBuffer.lowestFree_spec hf] at hway
    exact absurd hway nofun
  | commits e L _ _ _ => exact h.commit e L
  | pends e _ | ages e _ _ => exact h.of_set rfl rfl fun hway => ⟨hway, fun _ hm => hm⟩
  | discards e _ => exact h.discard e
  | recommits e k _ _ =>
    exact (h.recommit e k).of_eq (State.backToQuiescing_masters _) (State.backToQuiescing_buffer _)
  | dispatches k i _ => exact h.takeOp k i
  | endsDrain k o d e r w _ _ => exact h.completeDrain k o e r w
  | resetsBus | powersOn | clears _ =>
    exact State.waitSetLaw_of_none fun m => by simp [State.powerOn, State.reset, MasterCtx.reset]
  | ticks => exact h.runTimers
  | takesRead r q _ _ =>
    exact h.of_eq ((s.setRead r _).attachFill_masters r q.line) ((s.setRead r _).attachFill_buffer r q.line)
  | placesRead i _ => exact h.of_eq (s.placeRead_masters i) (s.placeRead_buffer i)
  | placesBit i _ => exact h.of_eq (s.placeBit_masters i) (s.placeBit_buffer i)
  | issues _ => exact h.of_eq s.issue_masters s.issue_buffer
  | goesOn k o L bytes f _ => exact h.of_eq (s.goOn_masters k L bytes f) (s.goOn_buffer k L bytes f)
  | endsFill k o readers g f _ _ =>
    exact h.of_eq ((State.logFault?_masters _ f).trans (State.answerReaders_masters _ readers g))
      ((State.logFault?_buffer _ f).trans (State.answerReaders_buffer _ readers g))
  | endsBitOp k o i st d f _ _ =>
    exact h.of_eq (s.completeBitOp_masters k i st d f) (s.completeBitOp_buffer k i st d f)
  | endsScrub k o f _ _ => exact h.of_eq (s.completeScrub_masters k f) (s.completeScrub_buffer k f)
  | appendsScrub _ _ => exact h.of_eq (State.advanceScrub_masters _) (State.advanceScrub_buffer _)
  | starts _ => split <;> exact h
  | _ => exact h

/-- Settles O11: each change keeps R93's law, so every step does. -/
theorem waitSetsHoldEntriesOnTheirWay : Obligations.WaitSetsHoldEntriesOnTheirWay :=
  fun _ _ h hs => step_keeps (fun _ _ hc hu => hc.waitSetLaw hu) (fun _ _ hu => hu) hs h

end Sys2Proof.Machine

/-! ## The check code: its sums over the columns, and what it does with 0, 1 and 2 changed bits (R117-R119) -/

namespace Sys2Proof.Machine

/-! ### Sums over columns -/

section Combine
variable {f g : Nat → Bool} {n m : Nat} {cs : List (BitVec 8)}

/-- Only the bits at the columns' places count. -/
theorem combine_congr (h : ∀ i, i < cs.length → f (n + i) = g (m + i)) : combine f n cs = combine g m cs := by
  induction cs generalizing n m with
  | nil => rfl
  | cons c cs ih =>
    have hhead : f n = g m := h 0 (Nat.zero_lt_succ _)
    have htail : combine f (n + 1) cs = combine g (m + 1) cs := ih fun i hi => by
      rw [Nat.add_right_comm, Nat.add_right_comm m]
      exact h (i + 1) (Nat.succ_lt_succ hi)
    rw [combine, combine, hhead, htail]

/-- The code is linear: changed bits change the sum by their own. -/
theorem combine_xor (f g : Nat → Bool) (n : Nat) (cs : List (BitVec 8)) :
    combine (fun i => f i ^^ g i) n cs = combine f n cs ^^^ combine g n cs := by
  induction cs generalizing n with
  | nil => exact BitVec.xor_self.symm
  | cons c cs ih =>
    have hhead : (if f n ^^ g n then c else 0) = (if f n then c else 0) ^^^ (if g n then c else 0) := by
      cases f n <;> cases g n <;> simp
    rw [combine, combine, combine, ih, hhead]
    ac_rfl

theorem combine_append (f : Nat → Bool) (n : Nat) (cs ds : List (BitVec 8)) :
    combine f n (cs ++ ds) = combine f n cs ^^^ combine f (n + cs.length) ds := by
  induction cs generalizing n with
  | nil => simp [combine]
  | cons c cs ih => simp only [List.cons_append, combine, ih, List.length_cons, BitVec.xor_assoc, Nat.add_right_comm,
      ← Nat.add_assoc]

theorem combine_zero (h : ∀ i, n ≤ i → f i = false) : combine f n cs = 0 := by
  induction cs generalizing n with
  | nil => rfl
  | cons c cs ih =>
    rw [combine, h n le_rfl, ih fun i hi => h i (Nat.le_of_succ_le hi)]
    exact BitVec.xor_self

/-- One bit alone gives its column. -/
theorem combine_single {i : Nat} (hi : i < cs.length) : combine (fun j => decide (n + i = j)) n cs = cs[i] := by
  induction cs generalizing n i with
  | nil => exact absurd hi (Nat.not_lt_zero i)
  | cons c cs ih =>
    cases i with
    | zero =>
      rw [combine, combine_zero fun j hj => decide_eq_false (by omega)]
      simp
    | succ i =>
      have htail := ih (n := n + 1) (Nat.lt_of_succ_lt_succ hi)
      rw [Nat.add_right_comm, Nat.add_assoc] at htail
      rw [combine, htail]
      simp

end Combine

/-- The sum for a word is linear in the word. -/
theorem combine_xor_bits {w : Nat} (u v : BitVec w) (cs : List (BitVec 8)) :
    combine (u ^^^ v).getLsbD 0 cs = combine u.getLsbD 0 cs ^^^ combine v.getLsbD 0 cs :=
  (combine_congr fun _ _ => BitVec.getLsbD_xor).trans (combine_xor _ _ _ _)

/-- The check bits' columns give back the check bits (R117, R118). -/
theorem combine_columnsOne (v : BitVec 8) : combine v.getLsbD 0 columnsOne = v := by
  revert v; decide +kernel

/-! ### The columns (R117) -/

/-- 1 for an odd number of 1-bits and 0 for an even one, as a sum over eight columns that are all 1. -/
def weightParity (v : BitVec 8) : BitVec 8 := combine v.getLsbD 0 (List.replicate 8 1)

theorem weightParity_xor (u v : BitVec 8) : weightParity (u ^^^ v) = weightParity u ^^^ weightParity v :=
  combine_xor_bits u v _

theorem columns_length : columns.length = 72 := rfl

theorem columns_nodup : columns.Nodup := by decide +kernel

/-- Every column has one, three or five 1-bits. -/
theorem weightParity_of_mem_columns {v : BitVec 8} (h : v ∈ columns) : weightParity v = 1 := by
  revert v; decide +kernel

theorem ne_zero_of_mem_columns {v : BitVec 8} (h : v ∈ columns) : v ≠ 0 := by
  rintro rfl
  exact absurd (weightParity_of_mem_columns h) (by decide)

/-- The sum of two columns has an even number of 1-bits, so it is no column. -/
theorem xor_not_mem_columns {u v : BitVec 8} (hu : u ∈ columns) (hv : v ∈ columns) : u ^^^ v ∉ columns := fun h => by
  have hodd := weightParity_of_mem_columns h
  rw [weightParity_xor, weightParity_of_mem_columns hu, weightParity_of_mem_columns hv] at hodd
  exact absurd hodd (by decide)

/-- A column is found at its own place. -/
theorem positionOf_column {i : Nat} (hi : i < columns.length) : positionOf columns[i] = some i := by
  refine List.findIdx?_eq_some_iff_getElem.mpr ⟨hi, beq_self_eq_true _, fun j hj heq => ?_⟩
  exact absurd (columns_nodup.getElem_inj_iff.mp (eq_of_beq heq)) hj.ne

theorem positionOf_of_not_mem {v : BitVec 8} (h : v ∉ columns) : positionOf v = none :=
  List.findIdx?_eq_none_iff.mpr fun _ hc => beq_eq_false_iff_ne.mpr fun heq => h (heq ▸ hc)

/-! ### The syndrome (R119) -/

theorem syndrome_xor (u v : CodedWord) : syndrome (u ^^^ v) = syndrome u ^^^ syndrome v :=
  combine_xor_bits u v columns

/-- One changed bit gives its column. -/
theorem syndrome_twoPow {i : Nat} (hi : i < 72) : syndrome (BitVec.twoPow 72 i) = columns[i]'hi := by
  rw [← combine_single (n := 0) (cs := columns) hi]
  refine combine_congr fun j hj => ?_
  have hj' : 0 + j < 72 := by rwa [Nat.zero_add]
  rw [BitVec.getLsbD_twoPow, decide_eq_true hi, Bool.true_and, Nat.zero_add i]

/-- Data bits stand at positions 0 to 63, check bits from position 64 on (R1). -/
theorem getLsbD_encodeWord (d : DataWord) (i : Nat) :
    (encodeWord d).getLsbD i = if i < 64 then d.getLsbD i else (checkBits d).getLsbD (i - 64) :=
  BitVec.getLsbD_append

/-- A word as written has syndrome 0: its check bits are the sum of its data bits' columns (R118). -/
theorem syndrome_encodeWord (d : DataWord) : syndrome (encodeWord d) = 0 := by
  have hdata : combine (encodeWord d).getLsbD 0 (columnsThree ++ columnsFive) = checkBits d := by
    refine combine_congr fun i hi => ?_
    have hi' : 0 + i < 64 := by rwa [Nat.zero_add]
    rw [getLsbD_encodeWord, if_pos hi']
  have hcheck : combine (encodeWord d).getLsbD 64 columnsOne = checkBits d := by
    refine (combine_congr fun i _ => ?_).trans (combine_columnsOne (checkBits d))
    rw [getLsbD_encodeWord, if_neg (by omega), Nat.add_sub_cancel_left, Nat.zero_add]
  rw [syndrome, columns, combine_append, hdata]
  exact (congrArg (checkBits d ^^^ ·) hcheck).trans BitVec.xor_self

/-! ### Classification (R119) -/

theorem setWidth_encodeWord (d : DataWord) : (encodeWord d).setWidth 64 = d := by
  refine BitVec.eq_of_getLsbD_eq fun i hi => ?_
  rw [BitVec.getLsbD_setWidth, decide_eq_true hi, Bool.true_and, getLsbD_encodeWord, if_pos hi]

/-- A changed bit of a word changes its data only at a data position. -/
theorem setWidth_xor_twoPow (w : CodedWord) (i : Nat) : (w ^^^ BitVec.twoPow 72 i).setWidth 64 =
    if i < 64 then w.setWidth 64 ^^^ BitVec.twoPow 64 i else w.setWidth 64 := by
  refine BitVec.eq_of_getLsbD_eq fun j hj => ?_
  have hj' : j < 72 := Nat.lt_of_lt_of_le hj (by decide)
  split
  · simp [hj, hj']
  · next hi =>
    have hne : j ≠ i := fun h => hi (h ▸ hj)
    simp [hj, hj', hne]

section Classify
variable {w : CodedWord}

theorem classify_clean (h : syndrome w = 0) : classify w = ⟨w.setWidth 64, .clean⟩ := if_pos h

/-- A syndrome that is a column: the bit at its position is taken as changed, and corrected when it is a data bit. -/
theorem classify_column {i : Nat} (hi : i < 72) (h : syndrome w = columns[i]'hi) :
    classify w = ⟨(w ^^^ BitVec.twoPow 72 i).setWidth 64, .corrected i⟩ := by
  have hne : syndrome w ≠ 0 := h ▸ ne_zero_of_mem_columns (List.getElem_mem hi)
  have hpos : positionOf (syndrome w) = some i := h ▸ positionOf_column hi
  simp only [classify, if_neg hne, hpos, setWidth_xor_twoPow]

theorem classify_other (h0 : syndrome w ≠ 0) (h : syndrome w ∉ columns) : (classify w).cls = .uncorrectable := by
  simp only [classify, if_neg h0, positionOf_of_not_mem h]

end Classify

/-- Settles O43: by linearity the syndrome of a changed word is the sum of the changed bits' columns, which are odd and
differ. -/
theorem checkCodeCorrectsOneBit : Obligations.CheckCodeCorrectsOneBit := by
  intro d i j hi hj hij
  have hmem {k : Nat} (hk : k < 72) : columns[k]'hk ∈ columns := List.getElem_mem hk
  have hone : syndrome (encodeWord d ^^^ BitVec.twoPow 72 i) = columns[i]'hi := by
    rw [syndrome_xor, syndrome_encodeWord, syndrome_twoPow hi]
    exact BitVec.zero_xor
  have htwo : syndrome (encodeWord d ^^^ BitVec.twoPow 72 i ^^^ BitVec.twoPow 72 j) = columns[i]'hi ^^^ columns[j]'hj := by
    rw [syndrome_xor, hone, syndrome_twoPow hj]
  refine ⟨?_, ?_, ?_⟩
  · rw [classify_clean (syndrome_encodeWord d), setWidth_encodeWord]
  · rw [classify_column hi hone, BitVec.xor_assoc, BitVec.xor_self, BitVec.xor_zero, setWidth_encodeWord]
  · refine classify_other (fun h0 => ?_) (htwo ▸ xor_not_mem_columns (hmem hi) (hmem hj))
    have heq := BitVec.xor_eq_zero_iff.mp (htwo.symm.trans h0)
    exact hij (columns_nodup.getElem_inj_iff.mp heq)

end Sys2Proof.Machine

/-! ## The array port: issue, DONE, FAULT, timeouts and the entry into HALTED (R58, R72, R86, R107-R113, R118, R158) -/

namespace Sys2Proof.Machine

theorem BridgeState.working_iff {b : BridgeState} : b.working = true ↔ b = .run ∨ b = .quiescing := by
  cases b <;> decide

theorem BridgeState.not_working {b : BridgeState} (hrun : b ≠ .run) (hquiescing : b ≠ .quiescing) :
    ¬b.working = true := fun h => (BridgeState.working_iff.mp h).elim hrun hquiescing

theorem BridgeState.issues_iff {b : BridgeState} : b.issues = true ↔ b = .run ∨ b = .quiescing ∨ b = .halted := by
  cases b <;> decide

/-- A function of each word, taken word by word. -/
theorem map_eq_ofFn {α β : Type} {n : Nat} (f : α → β) (v : Vector α n) :
    v.map f = Vector.ofFn fun i => f v[i] := by
  ext i hi
  simp

/-! ### Issue (R107, R108, R118) -/

section Issue
variable {s : State} {c : QueuedCmd} {rest : List QueuedCmd}

theorem State.issueDue_of (hp : s.port.condition = .idle) (hq : s.port.queue = c :: rest)
    (hb : s.control.bridge.issues = true) : s.issueDue = true := by
  rw [State.issueDue, hp, hq, hb]
  rfl

theorem State.issue_of_cons (hq : s.port.queue = c :: rest) : s.issue =
    { s with port := { s.port with queue := rest } }.setPort
      (.issued ⟨c.lane, c.cmd.present, c.line, 1, s.retriesAtIssue⟩ s.port.responseTimeout) := by
  simp only [State.issue, hq]

/-- A LINE-WRITE's words are presented with their check bits (R118). -/
theorem ArrayCmd.present_lineWrite (ws : Vector DataWord 4) :
    (ArrayCmd.lineWrite ws).present = .lineWrite (ws.map encodeWord) := by
  rw [ArrayCmd.present, map_eq_ofFn]

end Issue

/-- Settles O34: the step is due, and takes the head of the queue. -/
theorem issueStartsTheTimer : Obligations.IssueStartsTheTimer := by
  intro s c rest hp hq hb
  have hdue : s.issueDue = true := State.issueDue_of hp hq (BridgeState.issues_iff.mpr hb)
  have hexec : exec .commandIssue s = .next s.issue.settle := congrArg Host.Outcome.next (if_pos hdue)
  rw [hexec, State.issue_of_cons hq]
  cases hc : c.cmd with
  | lineRead => rfl
  | lineWrite ws =>
    rw [ArrayCmd.present_lineWrite]
    rfl

/-! ### Timeouts with retries, and the end of the abort interval (R111) -/

section Timeouts
variable {s : State} {c : InProgress} {tm : Nat}

theorem exec_completionTimeout_retries (hp : s.port.condition = .issued c tm) (hr : 0 < c.retries)
    (hb : s.control.bridge.working = true) : exec .completionTimeout s =
      .next (s.setPort (.aborting (some { c with retries := c.retries - 1 }) 1)).settle := by
  simp only [exec, execCompletionTimeout, State.completionTimeout, hp, if_pos (And.intro hr hb), Config.abortInterval]

theorem exec_completionTimeout_final (hp : s.port.condition = .issued c tm)
    (h : ¬(0 < c.retries ∧ s.control.bridge.working = true)) : exec .completionTimeout s =
      .next (s.finalFailure c .timeout (.aborting none 1)).settle := by
  simp only [exec, execCompletionTimeout, State.completionTimeout, hp, if_neg h, Config.abortInterval]

theorem exec_abortIntervalEnd_reissues (hp : s.port.condition = .aborting (some c) tm)
    (hb : s.control.bridge.working = true) : exec .abortIntervalEnd s =
      .next (s.setPort (.issued { c with issueCount := c.issueCount + 1 } s.port.responseTimeout)).settle := by
  simp only [exec, execAbortIntervalEnd, State.abortEnd, hp, if_pos hb]

theorem exec_abortIntervalEnd_cancelled (hp : s.port.condition = .aborting (some c) tm)
    (hb : ¬s.control.bridge.working = true) : exec .abortIntervalEnd s =
      .next (s.finalFailure c .timeout .idle).settle := by
  simp only [exec, execAbortIntervalEnd, State.abortEnd, hp, if_neg hb]

theorem exec_abortIntervalEnd_idles (hp : s.port.condition = .aborting none tm) :
    exec .abortIntervalEnd s = .next (s.setPort .idle).settle := by
  simp only [exec, execAbortIntervalEnd, State.abortEnd, hp]

theorem exec_arrayFault_issued (hp : s.port.condition = .issued c tm) :
    exec .arrayFault s = .next (s.finalFailure c .memFault .idle).settle := by
  simp only [exec, execArrayFault, State.arrayFault, hp]

end Timeouts

/-- Settles O42: one case of R111's table after the other. -/
theorem timeoutsAbortAndReissue : Obligations.TimeoutsAbortAndReissue := by
  intro s c tm late
  refine ⟨fun hp hr hb => ?_, fun hp hb => ?_, fun hp => ?_, fun hp => ?_⟩
  · rw [exec_completionTimeout_retries hp hr (BridgeState.working_iff.mpr hb)]
    rfl
  · rw [exec_abortIntervalEnd_reissues hp (BridgeState.working_iff.mpr hb)]
    rfl
  · rw [exec_abortIntervalEnd_idles hp]
    rfl
  · cases late with
    | done words => exact congrArg Host.Outcome.next (State.arrayDone_of_not words hp)
    | fault => exact congrArg Host.Outcome.next (State.arrayFault_of_not hp)

/-! ### DONE (R109) -/

/-- The port after DONE: IDLE, with no consecutive failure (R109). -/
def State.portDone (s : State) : State := { s with port := { s.port with failures := 0 } }.setPort .idle

/-! ### DONE of a LINE-READ: the words are noted one by one (R109, R119-R122) -/

/-- The four words are noted in word order (R109 step 3). -/
theorem State.noteWords_eq (s : State) (L : Nat) (op : Option (OpKind × BitVec 16)) (ws : Vector ReadWord 4) :
    s.noteWords L op ws = (((s.noteWord L op 0 ws[(0 : WordIx)]).noteWord L op 1 ws[(1 : WordIx)]).noteWord L op 2
      ws[(2 : WordIx)]).noteWord L op 3 ws[(3 : WordIx)] := rfl

/-- DONE of a LINE-READ: the port is IDLE with its failure count 0, the words are noted, and the lane gets them (R109). -/
theorem exec_arrayDone_read {s : State} {words : Vector CodedWord 4} {c : InProgress} {tm : Nat}
    (hp : s.port.condition = .issued c tm) (hc : c.cmd = .lineRead) : exec (.arrayDone words) s =
      .next (((s.portDone.noteWords c.line ((s.laneOp c.lane).map Operation.label) (words.map classify)).laneRead c.lane
        (words.map classify)).settle) := by
  simp only [exec, execArrayDone, State.arrayDone, hp, State.done, hc, map_eq_ofFn]
  rfl

/-- Settles O36: what a word's class brings about, word by word. -/
theorem doneClassifiesTheWords : Obligations.DoneClassifiesTheWords := by
  intro s words c tm hp hc op ws raised note s1
  have hnote (t : State) (w : WordIx) : note t w = t.noteWord c.line op w ws[w] := by
    simp only [note, State.noteWord]
    cases ws[w].cls with
    | clean => rfl
    | uncorrectable => rfl
    | corrected q => rfl
  rw [exec_arrayDone_read hp hc, State.noteWords_eq, hnote, hnote, hnote, hnote]
  rfl

/-! ### DONE of a drain's LINE-WRITE (R30, R35, R58, R109) -/

section DrainDone
variable {s : State} {k : LaneIx} {o : Operation} {d : DrainKind} {e f : EntryIx} {L : Nat}

/-- The drain of a DRAINING entry succeeds: the entry is freed as a DISCARD frees it, and its successor may commit (R35). -/
theorem State.drainSucceeds_draining (hs : s.buffer.entries[e].state = .draining)
    (hl : s.buffer.entries[e].line = some L) : s.drainSucceeds e = (s.discard e).commitSuccessor L := by
  simp only [State.drainSucceeds, State.discard, hl, if_pos hs]

theorem State.discard_setLane (hl : s.buffer.entries[e].line = some L) (l : Lane) :
    (s.discard e).setLane k l = (s.setLane k l).discard e := by
  rw [State.discard_eq hl, State.discard_eq (s := s.setLane k l) hl]
  rfl

/-- The LINE-WRITE of a drain is done: its operation leaves the list, its lane is IDLE, its entry is FREE, and its line's
OPEN entry commits when it is close-pending (R35, R58). -/
theorem State.laneWritten_drain (ho : s.laneOp k = some o) (hw : o.work = .drain d e)
    (hs : s.buffer.entries[e].state = .draining) (hl : s.buffer.entries[e].line = some L) : s.laneWritten k =
      (((s.removeLaneOp k).setLane k .idle).discard e).commitSuccessor L := by
  have hwritten : s.laneWritten k = ((s.removeLaneOp k).drainSucceeds e).setLane k .idle := by
    simp only [State.laneWritten, ho, hw, State.completeDrain]
  have hdrain : (s.removeLaneOp k).drainSucceeds e = ((s.removeLaneOp k).discard e).commitSuccessor L :=
    State.drainSucceeds_draining hs hl
  have hlane : ((s.removeLaneOp k).discard e).setLane k .idle = ((s.removeLaneOp k).setLane k .idle).discard e :=
    State.discard_setLane (s := s.removeLaneOp k) hl .idle
  rw [hwritten, hdrain, State.commitSuccessor_setLane, hlane]

/-- A DRAINING entry that is freed was no OPEN one, so its line's OPEN entry is the one it was. -/
theorem State.discard_openEntry (hs : s.buffer.entries[e].state = .draining) (hl : s.buffer.entries[e].line = some L) :
    (s.discard e).buffer.openEntry L = s.buffer.openEntry L := by
  rw [State.discard_eq hl]
  exact CombineBuffer.openEntry_put (x := Entry.free) (by rw [hs]; nofun) nofun L

theorem State.discard_entry (hl : s.buffer.entries[e].line = some L) (hf : f ≠ e) :
    (s.discard e).buffer.entries[f] = s.buffer.entries[f] := by
  rw [State.discard_eq hl]
  exact (s.buffer.retire_entry e f Entry.free).trans (if_neg hf.symm)

/-- Without a close-pending OPEN entry of the line none commits (R35). -/
theorem State.commitSuccessor_none (h : ∀ f, s.buffer.openEntry L = some f → s.buffer.entries[f].closePending = false) :
    s.commitSuccessor L = s := by
  unfold State.commitSuccessor
  split
  · next f hf => exact if_neg (Bool.eq_false_iff.mp (h f hf))
  · rfl

theorem State.commitSuccessor_commits (hf : s.buffer.openEntry L = some f)
    (hc : s.buffer.entries[f].closePending = true) : s.commitSuccessor L = s.commit f L := by
  simp only [State.commitSuccessor, hf, hc, if_true]

/-- A trigger that has made an offer due already changes nothing. -/
theorem State.wake_of_woken {w : Wake} (h : s.upstream.headWait.wokenBy w = true → s.upstream.offerDue = true) :
    s.wake w = s := by
  have hdue : (s.upstream.offerDue || s.upstream.headWait.wokenBy w) = s.upstream.offerDue := by
    cases hw : s.upstream.headWait.wokenBy w with
    | false => exact Bool.or_false _
    | true => rw [h hw, Bool.or_true]
  rw [State.wake, hdue]

theorem State.discard_woken (hl : s.buffer.entries[e].line = some L)
    (h : (s.discard e).upstream.headWait.wokenBy (.entryChanged L) = true) : (s.discard e).upstream.offerDue = true := by
  rw [State.discard_eq hl] at h ⊢
  have hw : s.upstream.headWait.wokenBy (.entryChanged L) = true := h
  simp only [State.wake_upstream, hw, Bool.or_true, Bool.true_or]

/-- A commit of the successor of an entry just freed: both are changes of the line's entries, and one offer answers them. -/
theorem State.discard_commit (hl : s.buffer.entries[e].line = some L) (hf : f ≠ e) : (s.discard e).commit f L =
    ((((s.discard e).setEntry f s.buffer.entries[f].commit).leaveOpenOrder f).appendOp
      (.drain s.buffer.entries[f].drainKind f) L) := by
  rw [State.commit, State.discard_entry hl hf]
  exact State.wake_of_woken (State.discard_woken hl)

end DrainDone

/-- DONE of a drain's LINE-WRITE: the port is IDLE with its failure count 0, the drain's operation, lane and entry are freed,
and the successor may commit (R35, R58, R109). -/
theorem exec_arrayDone_drain {s : State} {words w : Vector CodedWord 4} {c : InProgress} {tm : Nat} {o : Operation}
    {d : DrainKind} {e : EntryIx} {L : Nat} (hp : s.port.condition = .issued c tm) (hc : c.cmd = .lineWrite w)
    (ho : s.laneOp c.lane = some o) (hw : o.work = .drain d e) (hs : s.buffer.entries[e].state = .draining)
    (hl : s.buffer.entries[e].line = some L) : exec (.arrayDone words) s =
      .next (((((s.portDone.removeLaneOp c.lane).setLane c.lane .idle).discard e).commitSuccessor L).settle) := by
  have hwritten : s.portDone.laneWritten c.lane =
      (((s.portDone.removeLaneOp c.lane).setLane c.lane .idle).discard e).commitSuccessor L :=
    State.laneWritten_drain (s := s.portDone) ho hw hs hl
  rw [← hwritten]
  exact exec_arrayDone_written hp hc

/-- Settles O35: the entry is freed as by DISCARD, and its line's OPEN entry, which is another one, commits or stays. -/
theorem doneFreesTheDrainedEntry : Obligations.DoneFreesTheDrainedEntry := by
  intro s words c w tm o d e L hp hc ho hw hs hl freed
  let ended := (s.portDone.removeLaneOp c.lane).setLane c.lane .idle
  have hfreed : ended.discard e = freed := State.discard_eq hl
  have hopen : (ended.discard e).buffer.openEntry L = s.buffer.openEntry L := State.discard_openEntry hs hl
  have hother {f : EntryIx} (hf : s.buffer.openEntry L = some f) : f ≠ e := by
    rintro rfl
    exact absurd (hs.symm.trans (CombineBuffer.openEntry_spec hf).1) nofun
  have hentry {f : EntryIx} (hf : s.buffer.openEntry L = some f) :
      (ended.discard e).buffer.entries[f] = s.buffer.entries[f] := State.discard_entry hl (hother hf)
  rw [exec_arrayDone_drain hp hc ho hw hs hl]
  refine ⟨fun f hf hpend => ?_, fun hnone => ?_⟩
  · have hcommit : (ended.discard e).commitSuccessor L = (ended.discard e).commit f L :=
      State.commitSuccessor_commits (hopen.trans hf) ((congrArg Entry.closePending (hentry hf)).trans hpend)
    rw [hcommit, State.discard_commit (s := ended) hl (hother hf), hfreed]
    rfl
  · have hstays : (ended.discard e).commitSuccessor L = ended.discard e := State.commitSuccessor_none fun f hf => by
      have hf' := hopen.symm.trans hf
      exact (congrArg Entry.closePending (hentry hf')).trans (hnone f hf')
    rw [hstays, hfreed]
/-! ### The failure count and the entry into HALTED (R72, R86, R113, R158) -/

/-- The operations entry into HALTED keeps: every one but a QUEUED fill or BITOP (R158). -/
theorem not_haltRemoves_eq : (fun o : Operation => !o.haltRemoves) = fun o => match o.work, o.phase with
    | .fill _, .queued | .bitop _, .queued => false
    | _, _ => true := by
  funext o
  obtain ⟨work, line, order, phase⟩ := o
  cases work <;> cases phase <;> rfl

/-- Below the threshold, or in a state where it does not act, a failure is only counted (R113). -/
theorem State.countFailure_counts {s : State}
    (h : ¬(s.port.haltThreshold ≤ min 15 (s.port.failures + 1) ∧ s.control.bridge.working = true)) :
    s.countFailure = { s with port := { s.port with failures := min 15 (s.port.failures + 1) } } := if_neg h

/-- At the threshold in RUN or QUIESCING the bridge enters HALTED (R113). -/
theorem State.countFailure_halts {s : State} (hn : s.port.haltThreshold ≤ min 15 (s.port.failures + 1))
    (hb : s.control.bridge.working = true) : s.countFailure =
      { s with port := { s.port with failures := min 15 (s.port.failures + 1) } }.enterHalted .threshold :=
  if_pos ⟨hn, hb⟩

theorem HaltCause.count_eq (c : HaltCause) (n : Nat) : c.count n = if c = .command then 0 else n := by
  cases c <;> rfl

/-- Settles O41: the two outcomes of a failure that is counted, and the entry into HALTED field by field. -/
theorem haltsTakeTheirSteps : Obligations.HaltsTakeTheirSteps := by
  intro s c
  refine ⟨fun h => State.countFailure_counts ?_,
    fun hn hb => State.countFailure_halts hn (BridgeState.working_iff.mpr hb), ?_⟩
  · rintro ⟨hn, hworks⟩
    rcases h with hlt | ⟨hrun, hquiescing⟩
    · exact absurd hn (Nat.not_le.mpr hlt)
    · exact BridgeState.not_working hrun hquiescing hworks
  · rw [State.halt, State.haltQueued, not_haltRemoves_eq, HaltCause.count_eq]
    rfl

/-! ### Final failures (R57, R58, R69, R71, R84, R85, R110-R112, R130) -/

section Failures
variable {s : State} {k : LaneIx} {o : Operation} {r : FailReason}

/-- The steps of a final failure in their order: the fault logged, MEM-FAILURE raised, the failure counted, and the lane's
operation ended (R112). -/
theorem State.finalFailure_eq (s : State) (c : InProgress) (r : FailReason) (next : PortCondition) :
    s.finalFailure c r next = ((((s.setPort next).logFault (failFault c r ((s.laneOp c.lane).map Operation.label))).raise
      .memFailure).countFailure).laneFailed c.lane r := rfl

/-- A drain that fails leaves the list, its entry gets the reason, and its lane is IDLE (R57, R58). -/
theorem State.laneFailed_drain {d : DrainKind} {e : EntryIx} (ho : s.laneOp k = some o) (hw : o.work = .drain d e) :
    s.laneFailed k r =
      ((s.removeLaneOp k).drainFails e r.held (.drain d, o.queuedOrder) none).setLane k .idle := by
  have hlabel : o.label = (.drain d, o.queuedOrder) := by rw [Operation.label, hw, Work.kind]
  simp only [State.laneFailed, ho, hw, State.completeDrain, hlabel]

/-- A fill that fails leaves the list, its lane is IDLE, and its readers get the status and no data (R69, R71). -/
theorem State.laneFailed_fill {readers : List ReadIx} (ho : s.laneOp k = some o) (hw : o.work = .fill readers) :
    s.laneFailed k r = ((s.removeLaneOp k).setLane k .idle).answerReaders readers fun _ => (r.status, []) := by
  rw [← State.answerReaders_setLane]
  simp only [State.laneFailed, ho, hw]

/-- A BITOP that fails leaves the list, its lane is IDLE, and its record READY with the status or FREE (R84, R85). -/
theorem State.laneFailed_bitop {i : BitIx} {b : BitReq} {old : List Byte} (ho : s.laneOp k = some o)
    (hw : o.work = .bitop i) (h : s.bitops[i] = .inFlight b old ∨ s.bitops[i] = .orphaned b) : s.laneFailed k r =
      let ended := ((s.removeLaneOp k).setBit i
        (if s.bitops[i] = .orphaned b then .free else .ready b r.status [])).setLane k .idle
      if s.bitops[i] = .orphaned b then ended.wake .bitFreed else ended := by
  have hfailed : s.laneFailed k r = s.completeBitOp k i r.status [] none := by
    simp only [State.laneFailed, ho, hw]
  rw [hfailed, State.completeBitOp_eq h, BitRec.complete_of_running h]
  rfl

theorem State.laneFailed_scrub (ho : s.laneOp k = some o) (hw : o.work = .scrub) :
    s.laneFailed k r = (s.removeLaneOp k).setLane k .idle := by
  simp only [State.laneFailed, ho, hw]
  rfl

end Failures

/-- Settles O40: the steps of R112 for each event that ends a command for good, and what each kind of operation makes of
its lane's failure. -/
theorem finalFailuresTakeTheirSteps : Obligations.FinalFailuresTakeTheirSteps := by
  refine ⟨fun s c tm => ?_, fun s k o r ho => ?_⟩
  · intro op kind ended
    have hkind : kind = c.cmd.kind := by
      cases hc : c.cmd <;> simp only [kind, hc, Presented.kind]
    refine ⟨fun hp => ?_, fun hp h => ?_, fun hp hrun hquiescing => ?_⟩
    · rw [exec_arrayFault_issued hp, State.finalFailure_eq, hkind]
      rfl
    · have hfinal : ¬(0 < c.retries ∧ s.control.bridge.working = true) := by
        rintro ⟨hretries, hworks⟩
        rcases h with h | ⟨hrun, hquiescing⟩
        · exact absurd h hretries.ne'
        · exact BridgeState.not_working hrun hquiescing hworks
      rw [exec_completionTimeout_final hp hfinal, State.finalFailure_eq, hkind]
      rfl
    · rw [exec_abortIntervalEnd_cancelled hp (BridgeState.not_working hrun hquiescing), State.finalFailure_eq, hkind]
      rfl
  · intro status reason removed ended
    have hstatus : status = r.status := by cases r <;> rfl
    have hreason : reason = r.held := by cases r <;> rfl
    refine ⟨fun d e hw => ?_, fun readers hw => ?_, fun i b old hw hi => ?_, fun i b hw hi => ?_, fun hw => ?_⟩
    · rw [State.laneFailed_drain ho hw, State.setLane, State.drainFails_lanes, hreason]
      rfl
    · rw [State.laneFailed_fill ho hw, hstatus]
      rfl
    · have hne : s.bitops[i] ≠ .orphaned b := by rw [hi]; nofun
      rw [State.laneFailed_bitop ho hw (.inl hi), if_neg hne, if_neg hne, hstatus]
      rfl
    · rw [State.laneFailed_bitop (old := []) ho hw (.inr hi), if_pos hi, if_pos hi]
      rfl
    · exact State.laneFailed_scrub ho hw

end Sys2Proof.Machine

/-! ## The patrol scrubber: the expiry of its interval timer (R125, R126) -/

namespace Sys2Proof.Machine

section ScrubExpiry
variable {s : State} {tm : Nat}

theorem State.scrubListed_iff : s.scrubListed = true ↔ ∃ o ∈ s.opList.ops, o.work = .scrub := by
  simp only [State.scrubListed, List.any_eq_true, Operation.isScrub, beq_iff_eq]

/-- Below the last line the position rises by one (R126). -/
theorem State.advanceScrub_of_lt (h : s.scrub.position + 1 < s.capacityLines) :
    s.advanceScrub = { s with scrub := { s.scrub with position := s.scrub.position + 1 } } := if_pos h

/-- At the last line the position wraps, the pass is counted and SCRUB-PASS is raised (R126). -/
theorem State.advanceScrub_of_last (h : s.scrub.position + 1 = s.capacityLines) : s.advanceScrub =
    { s with scrub := { s.scrub with position := 0, passes := s.scrub.passes + 1 } }.raise .scrubPass :=
  if_neg h.not_lt

/-- While a SCRUB is listed the expiry is skipped: only the timer is reloaded (R126). -/
theorem exec_scrubIntervalExpiry_listed (ht : s.scrub.timer = some tm) (h : s.scrubListed = true) :
    exec .scrubIntervalExpiry s = .next s.loadScrubTimer := by
  simp only [exec, execScrubIntervalExpiry, State.scrubExpires, ht, if_pos h]

/-- With no SCRUB listed one is appended for the position the scrubber has before it advances (R126). -/
theorem exec_scrubIntervalExpiry_appends (ht : s.scrub.timer = some tm) (h : ¬s.scrubListed = true) :
    exec .scrubIntervalExpiry s =
      .next (((s.appendOp .scrub s.scrub.position).advanceScrub).loadScrubTimer).settle := by
  simp only [exec, execScrubIntervalExpiry, State.scrubExpires, ht, if_neg h]

end ScrubExpiry

/-- Settles O45: the expiry is skipped while a SCRUB is listed; else the position advances as R126 says, which the
appended operation does not affect. -/
theorem scrubExpiryAppendsAndAdvances : Obligations.ScrubExpiryAppendsAndAdvances := by
  intro s tm ht
  refine ⟨fun hlisted => ?_, fun hnone => ?_⟩
  · rw [exec_scrubIntervalExpiry_listed ht (State.scrubListed_iff.mpr hlisted)]
    rfl
  · intro ops
    have hunlisted : ¬s.scrubListed = true := by
      rw [State.scrubListed_iff]
      rintro ⟨o, ho, hw⟩
      exact hnone o ho hw
    rw [exec_scrubIntervalExpiry_appends ht hunlisted]
    refine ⟨fun hlt => ?_, fun hlast => ?_⟩
    · rw [State.advanceScrub_of_lt (s := s.appendOp .scrub s.scrub.position) hlt]
      rfl
    · rw [State.advanceScrub_of_last (s := s.appendOp .scrub s.scrub.position) hlast]
      rfl

end Sys2Proof.Machine

/-! ## The upstream port: arrival, delivery, bus reset and the levels of the pins (R137, R138, R143, R146-R148, R174, R177) -/

namespace Sys2Proof.Machine

/-! ### Bus reset (R60, R71, R85, R88, R147) -/

/-- A bus reset and the entry into HALTED remove the same operations: the QUEUED fills and BITOPs (R60, R158). -/
theorem Operation.busResettable_eq_haltRemoves (o : Operation) : o.busResettable = o.haltRemoves := by
  obtain ⟨work, line, order, phase⟩ := o
  cases work <;> cases phase <;> rfl

/-- A read record keeps its request, as ORPHANED, only while a fill for it is on its way (R71). -/
theorem ReadRec.busReset_eq (flying : Bool) (x : ReadRec) : x.busReset flying = match x with
    | .waitFill r => if flying then .orphaned r else .free
    | .orphaned r => .orphaned r
    | .ready _ _ _ | .free => .free := by
  cases x <;> rfl

/-- A bit operation record keeps its request, as ORPHANED, only once a lane has its BITOP (R85). -/
theorem BitRec.busReset_eq (x : BitRec) : x.busReset = match x with
    | .inFlight b _ | .orphaned b => .orphaned b
    | .queued _ | .ready _ _ _ | .free => .free := by
  cases x <;> rfl

/-- Settles O17: what becomes of a record of each kind and of an operation of each kind; the other fields are set at once. -/
theorem busResetEmptiesTheUpstreamSide : Obligations.BusResetEmptiesTheUpstreamSide := by
  intro s
  simp only [exec, execBusrstAsserted, State.busReset, ReadRec.busReset_eq, BitRec.busReset_eq,
    Operation.busResettable_eq_haltRemoves, not_haltRemoves_eq]
  rfl

/-! ### The levels of the pins (R148, R174, R177) -/

theorem MgmtPort.cutOff_iff {g : MgmtPort} :
    g.cutOff = true ↔ g.condition = .command ∧ (g.bytes ≠ [] ∨ g.bits ≠ []) := by
  simp [MgmtPort.cutOff]

/-- Settles O18: MSEL's edge by the level it had, and its deassertion by whether it cuts a command frame off. -/
theorem pinLevelsAreTakenUp : Obligations.PinLevelsAreTakenUp := by
  refine fun s => ⟨rfl, fun hlow => ?_, fun hhigh => ?_, fun hcut => ?_, fun hcut => ?_⟩
  · have hsel : ¬s.mgmt.msel = true := Bool.eq_false_iff.mp hlow
    exact congrArg Host.Outcome.next (if_neg hsel)
  · exact congrArg Host.Outcome.next (if_pos hhigh)
  · rw [← MgmtPort.cutOff_iff] at hcut
    simp only [exec, execMselDeassert, State.deselect, if_pos hcut]
    rfl
  · rw [← MgmtPort.cutOff_iff] at hcut
    simp only [exec, execMselDeassert, State.deselect, if_neg hcut]
    rfl

/-! ### Arrival, and the triggers of a head offer (R26, R66, R79, R91, R137, R138) -/

theorem State.accepts_iff {s : State} : s.accepts = true ↔
    s.upstream.intake.length < 8 ∧ s.control.bridge ≠ .restarting ∧ s.upstream.busrst = false := by
  simp only [State.accepts, Bool.and_eq_true, decide_eq_true_eq, bne_iff_ne, Bool.not_eq_true', and_assoc]
  rfl

/-- The triggers each wait of the head names (R138). -/
theorem HeadWait.wokenBy_iff {h : HeadWait} {w : Wake} : h.wokenBy w = true ↔ match h, w with
    | .freeEntry _, .entryChanged _ | .bitOp _, .bitFreed | .slot (some _), .bitFreed | .read _, .readFreed
    | .read _, .slotFreed | .barrier, .slotFreed => True
    | .bitOp l, .entryChanged l' | .slot (some l), .entryChanged l' | .read l, .overlayLost l' => l = l'
    | _, _ => False := by
  cases h with
  | none | freeEntry _ | read _ | bitOp _ | barrier => cases w <;> simp [HeadWait.wokenBy]
  | slot line => cases line <;> cases w <;> simp [HeadWait.wokenBy]

/-- A trigger the wait names makes an offer due. -/
theorem State.wake_of_wokenBy {s : State} {w : Wake} (h : s.upstream.headWait.wokenBy w = true) :
    s.wake w = { s with upstream := { s.upstream with offerDue := true } } := by
  rw [State.wake, h, Bool.or_true]

/-- Settles O19: the port accepts the request or it does not; and the trigger is one of those the wait names or it is not. -/
theorem arrivalsJoinTheIntake : Obligations.ArrivalsJoinTheIntake := by
  refine ⟨fun s r => ⟨fun hroom hbridge hrst => ?_, fun hheld => ?_⟩, fun s w => ⟨fun hwakes => ?_, fun hwakes => ?_⟩⟩
  · have hacc : s.accepts = true := State.accepts_iff.mpr ⟨hroom, hbridge, hrst⟩
    exact congrArg Host.Outcome.next (if_pos hacc)
  · have hacc : ¬s.accepts = true := by
      rw [State.accepts_iff]
      rintro ⟨hroom, hbridge, hrst⟩
      rcases hheld with hfull | hrestarting | hasserted
      · exact Nat.not_le.mpr hroom hfull
      · exact hbridge hrestarting
      · exact Bool.eq_false_iff.mp hrst hasserted
    exact congrArg Host.Outcome.next (if_neg hacc)
  · exact State.wake_of_wokenBy (HeadWait.wokenBy_iff.mpr hwakes)
  · exact State.wake_of_woken fun hwoken => absurd (HeadWait.wokenBy_iff.mp hwoken) hwakes

/-! ### Delivery (R143, R146, R148) -/

section Delivery
variable {s : State} {r : Response} {rs : List Response}

/-- The head response leaves the queue, its slot is freed, and the tag of a taken request leaves its master's set. -/
theorem State.deliver_cons (hq : s.upstream.responses = r :: rs) (hb : s.upstream.busrst = false) : s.deliver =
    let freed := State.wake { s with upstream := { s.upstream with responses := rs } } .slotFreed
    match r.taken with
    | some (m, t) => freed.removeTag m t
    | none => freed := by
  unfold State.deliver
  rw [hq]
  exact if_neg (Bool.eq_false_iff.mp hb)

theorem State.deliver_busrst (hb : s.upstream.busrst = true) : s.deliver = s := by
  unfold State.deliver
  split
  · rfl
  · exact if_pos hb

end Delivery

/-- Settles O27: with BUSRST deasserted by the kind of the response, else nothing is delivered. -/
theorem deliveryReleasesTheTag : Obligations.DeliveryReleasesTheTag := by
  intro s r rs hq
  refine ⟨fun hb => ?_, fun hb => ?_⟩
  · simp only [exec, execResponseDelivery, State.deliver_cons hq hb]
    cases r <;> rfl
  · simp only [exec, execResponseDelivery, State.deliver_busrst hb]

end Sys2Proof.Machine

/-! ## Requests the head checks refuse (R76, R79, R89, R91, R139-R141) -/

namespace Sys2Proof.Machine

/-! ### The first of checks 1 to 5 that fails (R139) -/

/-- In state `s` a request of master `m` with tag `t` other than a WRITE fails one of checks 1 to 5, the first with status
`st`. `place` says of a request with an address whether its span is aligned, and what the region lookup answers. -/
inductive State.FailsCheck (s : State) (m : MasterIx) (t : Tag) (place : Option (Bool × Lookup)) :
    RefusalStatus → Prop where
  | bridge {st : RefusalStatus} : s.control.bridge.headRefusal = some st → s.FailsCheck m t place st
  | tag : s.control.bridge = .run → s.tagHeld m t = true → s.FailsCheck m t place .tagClash
  | span {look : Lookup} : s.control.bridge = .run → s.tagHeld m t = false → place = some (false, look) →
      s.FailsCheck m t place .misaligned
  | window : s.control.bridge = .run → s.tagHeld m t = false → place = some (true, .unmapped) →
      s.FailsCheck m t place .unmapped
  | rights {n : RegionIx} {c : DenialCause} : s.control.bridge = .run → s.tagHeld m t = false →
      place = some (true, .denied n c) → s.FailsCheck m t place .denied

section Refused
variable {s : State} {q : Request} {rest : List Request} {m : MasterIx} {t : Tag} {a : UpAddr} {st : RefusalStatus}

theorem BridgeState.headRefusal_run : BridgeState.headRefusal .run = none := rfl

theorem BridgeState.headRefusal_iff {b : BridgeState} :
    b.headRefusal = some st ↔ (b = .config ∧ st = .notRunning) ∨ (b = .halted ∧ st = .halted) := by
  cases b <;> simp [BridgeState.headRefusal, eq_comm]

/-- A READ that fails a check is refused with the check's status (R140). -/
theorem State.examineRead_refused {n : Nat}
    (h : s.FailsCheck m t (some (inLine a n, s.regionMap.lookup m false a)) st) :
    s.examineRead m t a n = s.refuse m t (some a) .read st (.slot none) := by
  cases h with
  | bridge hb => simp only [State.examineRead, hb]
  | tag hr ht => simp only [State.examineRead, hr, BridgeState.headRefusal_run, ht, if_true]
  | span hr ht hp | window hr ht hp | rights hr ht hp =>
    obtain ⟨hin, hl⟩ := Prod.mk.inj (Option.some.inj hp)
    simp only [State.examineRead, hr, BridgeState.headRefusal_run, ht, hin, hl, Bool.false_eq_true, Bool.true_eq_false,
      if_false, if_true]

/-- A bit operation that fails a check is refused, and keeps the line of a wait of R79 (R140, log entry 26). -/
theorem State.examineBitOp_refused {k : BitKind} {operand : List Byte}
    (h : s.FailsCheck m t (some (inWord a operand.length, s.regionMap.lookup m true a)) st) :
    s.examineBitOp k m t a operand = s.refuse m t (some a) (.bits k) st (.slot s.upstream.headWait.bitLine) := by
  cases h with
  | bridge hb => simp only [State.examineBitOp, hb]
  | tag hr ht => simp only [State.examineBitOp, hr, BridgeState.headRefusal_run, ht, if_true]
  | span hr ht hp | window hr ht hp | rights hr ht hp =>
    obtain ⟨hin, hl⟩ := Prod.mk.inj (Option.some.inj hp)
    simp only [State.examineBitOp, hr, BridgeState.headRefusal_run, ht, hin, hl, Bool.false_eq_true, Bool.true_eq_false,
      if_false, if_true]

/-- A BARRIER has no address, and fails check 1 or 2 (R139, R140). -/
theorem State.examineBarrier_refused (h : s.FailsCheck m t none st) :
    s.examineBarrier m t = s.refuse m t none .barrier st .barrier := by
  cases h with
  | bridge hb => simp only [State.examineBarrier, hb]
  | tag hr ht => simp only [State.examineBarrier, hr, BridgeState.headRefusal_run, ht, if_true]
  | span _ _ hp | window _ _ hp | rights _ _ hp => cases hp

/-- In CONFIG, HALTED and RUN the head is examined while BUSRST is deasserted (R138, R148). -/
theorem State.examinable_of (hb : s.upstream.busrst = false)
    (h : s.control.bridge = .config ∨ s.control.bridge = .halted ∨ s.control.bridge = .run) : s.examinable = true := by
  rcases h with h | h | h <;> simp [State.examinable, h, hb]

theorem State.FailsCheck.examinable {place : Option (Bool × Lookup)} (h : s.FailsCheck m t place st)
    (hb : s.upstream.busrst = false) : s.examinable = true := by
  refine State.examinable_of hb ?_
  cases h with
  | bridge hst =>
    rcases BridgeState.headRefusal_iff.mp hst with ⟨hconfig, -⟩ | ⟨hhalted, -⟩
    · exact .inl hconfig
    · exact .inr (.inl hhalted)
  | tag hr | span hr | window hr | rights hr => exact .inr (.inr hr)

theorem exec_headOffer_examines (hi : s.upstream.intake = q :: rest) (he : s.examinable = true) :
    exec .headOffer s = .next s.offerHead.settle := by
  refine congrArg Host.Outcome.next (if_pos ?_)
  rw [he, hi]
  rfl

/-! ### READs, bit operations and BARRIERs (R140) -/

/-- The wait of a refusal without a slot: a bit operation's keeps the line of its wait of R79, a BARRIER's is for any freed
slot (log entries 26, 27). -/
def ReqKind.refusalWait (k : ReqKind) (w : HeadWait) : HeadWait :=
  match k with
  | .bits _ => .slot w.bitLine
  | .barrier => .barrier
  | .read | .write => .slot none

theorem HeadWait.bitLine_eq (w : HeadWait) : w.bitLine = match w with
    | .bitOp L => some L
    | .slot L => L
    | _ => Option.none := by
  cases w <;> rfl

/-- The checks in the words of R139: the bridge state, the tag, and for a request with an address its span and its window. -/
theorem State.failsCheck_of {address : Option UpAddr} {aligned : Prop} {ok : Bool} {look : UpAddr → Lookup}
    (hok : ∀ b, address = some b → (ok = true ↔ aligned))
    (h : (s.control.bridge = .config ∧ st = .notRunning) ∨ (s.control.bridge = .halted ∧ st = .halted) ∨
      (s.control.bridge = .run ∧ s.masters[m].tags.getLsbD t = true ∧ st = .tagClash) ∨
      (∃ b, address = some b ∧ s.control.bridge = .run ∧ ¬s.masters[m].tags.getLsbD t = true ∧
        ((¬aligned ∧ st = .misaligned) ∨ (aligned ∧ look b = .unmapped ∧ st = .unmapped) ∨
          (aligned ∧ (∃ n c, look b = .denied n c) ∧ st = .denied)))) :
    s.FailsCheck m t (address.map fun b => (ok, look b)) st := by
  rcases h with h | h | ⟨hr, ht, rfl⟩ | ⟨b, rfl, hr, ht, h⟩
  · exact .bridge (BridgeState.headRefusal_iff.mpr (.inl h))
  · exact .bridge (BridgeState.headRefusal_iff.mpr (.inr h))
  · exact .tag hr ht
  · have htag : s.tagHeld m t = false := Bool.eq_false_iff.mpr ht
    have hal : ok = true ↔ aligned := hok b rfl
    rcases h with ⟨hout, rfl⟩ | ⟨hin, hl, rfl⟩ | ⟨hin, ⟨n, c, hl⟩, rfl⟩
    · exact .span hr htag (by rw [Option.map_some, Bool.eq_false_iff.mpr (mt hal.mp hout)])
    · exact .window hr htag (by rw [Option.map_some, hal.mpr hin, hl])
    · exact .rights hr htag (by rw [Option.map_some, hal.mpr hin, hl])

end Refused

/-- Settles O20: each kind of request fails the check that the status names, and is then refused with or without a slot. -/
theorem nonWritesAreRefused : Obligations.NonWritesAreRefused := by
  intro s q rest m t a k st aligned hi hb hq run clash look hst placed waited wait
  have hwait : k.refusalWait s.upstream.headWait = wait := by
    simp only [ReqKind.refusalWait, HeadWait.bitLine_eq]
    rfl
  have hrefused : s.examinable = true ∧ s.offerHead = s.refuse m t a k st (k.refusalWait s.upstream.headWait) := by
    rcases hq with ⟨b, n, rfl, rfl, rfl, hal⟩ | ⟨j, b, d, rfl, rfl, rfl, hal⟩ | ⟨rfl, rfl, rfl⟩
    · have hfails : s.FailsCheck m t (some (inLine b n, s.regionMap.lookup m false b)) st :=
        State.failsCheck_of (fun _ _ => decide_eq_true_iff.trans hal.symm) hst
      exact ⟨hfails.examinable hb, by rw [State.offerHead, hi]; exact State.examineRead_refused hfails⟩
    · have hfails : s.FailsCheck m t (some (inWord b d.length, s.regionMap.lookup m true b)) st :=
        State.failsCheck_of (fun _ _ => decide_eq_true_iff.trans hal.symm) hst
      exact ⟨hfails.examinable hb, by rw [State.offerHead, hi]; exact State.examineBitOp_refused hfails⟩
    · have hfails : s.FailsCheck m t none st := State.failsCheck_of (address := none) (ok := true) nofun hst
      exact ⟨hfails.examinable hb, by rw [State.offerHead, hi]; exact State.examineBarrier_refused hfails⟩
  obtain ⟨he, ho⟩ := hrefused
  rw [exec_headOffer_examines hi he, ho, hwait]
  refine ⟨fun hslot => ?_, fun hfull => ?_⟩
  · rw [State.refuse_of_slot hi hslot]
  · rw [State.refuse_of_full hfull]
    rfl

/-! ### WRITEs (R89, R141) -/

/-- Recording an error sets the deferred error of a master without one, and counts one further otherwise (R89). -/
theorem MasterCtx.record_eq (k : DeferredKind) (c : MasterCtx) : c.record k =
    { c with deferred := some (match c.deferred with
      | none => ⟨k, 0⟩
      | some e => { e with further := min 255 (e.further + 1) }) } := by
  unfold MasterCtx.record
  cases c.deferred <;> rfl

section DroppedWrite
variable {s : State} {m : MasterIx} {a : UpAddr} {bytes : List Byte}

theorem State.examineWrite_notRunning (h : s.control.bridge = .config ∨ s.control.bridge = .halted) :
    s.examineWrite m a bytes = s.dropWrite m a (.writeNotRunning s.control.bridge) .writeNotRunning := by
  rcases h with h | h <;> simp only [State.examineWrite, h, BridgeState.headRefusal]

section Running
variable (hr : s.control.bridge = .run)
include hr

theorem State.examineWrite_misaligned (h : inLine a bytes.length = false) : s.examineWrite m a bytes =
    s.dropWrite m a (.writeMisaligned (posOf a.toNat) bytes.length) .writeMisaligned := by
  simp only [State.examineWrite, hr, BridgeState.headRefusal_run, h, if_true]

theorem State.examineWrite_unmapped (h : inLine a bytes.length = true) (hl : s.regionMap.lookup m true a = .unmapped) :
    s.examineWrite m a bytes = s.dropWrite m a (.writeUnmapped bytes.length) .writeUnmapped := by
  simp only [State.examineWrite, hr, BridgeState.headRefusal_run, h, hl, Bool.true_eq_false, if_false]

theorem State.examineWrite_denied {n : RegionIx} {c : DenialCause} (h : inLine a bytes.length = true)
    (hl : s.regionMap.lookup m true a = .denied n c) :
    s.examineWrite m a bytes = s.dropWrite m a (.writeDenied c n) .writeDenied := by
  simp only [State.examineWrite, hr, BridgeState.headRefusal_run, h, hl, Bool.true_eq_false, if_false]

end Running
end DroppedWrite

/-- Settles O21: each row of R141's table drops the write, and dropping it is its fault, its error and WRITE-DROPPED. -/
theorem refusedWritesAreRecorded : Obligations.RefusedWritesAreRecorded := by
  intro s rest m t a bytes f d hi hb aligned hrow c error
  have haligned : inLine a bytes.length = true ↔ aligned := decide_eq_true_iff
  have hrefused : s.examinable = true ∧ s.examineWrite m a bytes = s.dropWrite m a f d := by
    rcases hrow with ⟨hbridge, rfl, rfl⟩ | ⟨hr, hout, rfl, rfl⟩ | ⟨hr, hin, hl, rfl, rfl⟩ |
      ⟨n, cause, hr, hin, hl, rfl, rfl⟩
    · exact ⟨State.examinable_of hb (hbridge.imp_right .inl), State.examineWrite_notRunning hbridge⟩
    · have hfails : inLine a bytes.length = false := Bool.eq_false_iff.mpr (mt haligned.mp hout)
      exact ⟨State.examinable_of hb (.inr (.inr hr)), State.examineWrite_misaligned hr hfails⟩
    · exact ⟨State.examinable_of hb (.inr (.inr hr)), State.examineWrite_unmapped hr (haligned.mpr hin) hl⟩
    · exact ⟨State.examinable_of hb (.inr (.inr hr)), State.examineWrite_denied hr (haligned.mpr hin) hl⟩
  obtain ⟨he, hdrop⟩ := hrefused
  have hrecord : c.record d = { c with deferred := some error } := MasterCtx.record_eq d c
  rw [exec_headOffer_examines hi he, State.offerHead, hi, ← hrecord]
  exact congrArg (fun u : State => Host.Outcome.next u.settle) hdrop

end Sys2Proof.Machine

/-! ## What an event's consequences never change: the items and what R161 keeps (R161, R181) -/

namespace Sys2Proof.Machine

/-- The items, the region map, the management port, the level of BUSRST, the waiting commands, and what restart clearing
keeps of the scrubber (R161, R181). -/
structure Settings where
  regionMap : RegionMap
  mgmt : MgmtPort
  pending : List Instr
  busrst : Bool
  ageLimit : Nat
  closeAhead : Nat
  position : Nat
  passes : BitVec 16
  interval : Nat
  correctedCount : Nat
  responseTimeout : Nat
  retryLimit : Nat
  haltThreshold : Nat
  logCorrected : Bool
  enable : SourceSet
  urgent : SourceSet

def State.settings (s : State) : Settings where
  regionMap := s.regionMap
  mgmt := s.mgmt
  pending := s.pending
  busrst := s.upstream.busrst
  ageLimit := s.buffer.ageLimit
  closeAhead := s.buffer.closeAhead
  position := s.scrub.position
  passes := s.scrub.passes
  interval := s.scrub.interval
  correctedCount := s.port.correctedCount
  responseTimeout := s.port.responseTimeout
  retryLimit := s.port.retryLimit
  haltThreshold := s.port.haltThreshold
  logCorrected := s.port.logCorrected
  enable := s.events.enable
  urgent := s.events.urgent

/-- What requests, operations and responses leave alone: the settings, the state controller and the scrubber. -/
def State.frame (s : State) : Settings × Control × Scrubber := (s.settings, s.control, s.scrub)

theorem State.settings_of_frame {s t : State} (h : t.frame = s.frame) : t.settings = s.settings := (Prod.mk.inj h).1

theorem State.control_of_frame {s t : State} (h : t.frame = s.frame) : t.control = s.control :=
  congrArg (fun f => f.2.1) h

theorem State.scrub_of_frame {s t : State} (h : t.frame = s.frame) : t.scrub = s.scrub := congrArg (fun f => f.2.2) h

section Frames
variable (s : State)

/-! ### Faults, entries and records -/

@[simp] theorem State.logFault_frame (r : FaultRecord) : (s.logFault r).frame = s.frame := by
  unfold State.frame State.settings
  rw [State.logFault_events]
  split <;> rfl

theorem State.logFault?_frame (f : Option FaultRecord) : (s.logFault? f).frame = s.frame := by
  cases f with
  | none => rfl
  | some r => exact s.logFault_frame r

theorem State.closeRequest_frame (e : EntryIx) : (s.closeRequest e).frame = s.frame := by
  rcases s.closeRequest_cases e with h | ⟨L, -, -, -, ⟨-, h⟩ | ⟨p, -, h⟩⟩ <;> rw [h] <;> rfl

theorem State.closeRequest?_frame (o : Option EntryIx) : (s.closeRequest? o).frame = s.frame := by
  cases o with
  | none => rfl
  | some e => exact s.closeRequest_frame e

theorem State.closeAll_frame (es : List EntryIx) : (s.closeAll es).frame = s.frame := by
  induction es generalizing s with
  | nil => rfl
  | cons e es ih => exact (ih (s.closeRequest e)).trans (s.closeRequest_frame e)

theorem State.afterWrite_frame (e : EntryIx) (attr : Attr) : (s.afterWrite e attr).frame = s.frame := by
  rw [State.afterWrite_eq]
  split
  · exact s.closeRequest_frame e
  · rfl

theorem State.pressure_frame : s.pressure.frame = s.frame := by
  unfold State.pressure
  split
  · exact s.closeRequest?_frame _
  · rfl

theorem State.attachFill_frame (r : ReadIx) (L : Nat) : (s.attachFill r L).frame = s.frame := by
  unfold State.attachFill
  split
  · split <;> rfl
  · rfl

theorem State.placeRead_frame (i : ReadIx) : (s.placeRead i).frame = s.frame := by
  unfold State.placeRead
  split <;> rfl

theorem State.placeBit_frame (i : BitIx) : (s.placeBit i).frame = s.frame := by
  unfold State.placeBit
  split <;> rfl

theorem State.placeBarrier_frame (m : MasterIx) : (s.placeBarrier m).frame = s.frame := by
  unfold State.placeBarrier
  split <;> rfl

/-! ### The offer of the head -/

@[simp] theorem State.raise_frame (e : EventSource) : (s.raise e).frame = s.frame := rfl

@[simp] theorem State.recordError_frame (m : MasterIx) (k : DeferredKind) : (s.recordError m k).frame = s.frame := rfl

@[simp] theorem State.placeResponse_frame (r : Response) : (s.placeResponse r).frame = s.frame := rfl

@[simp] theorem State.popHead_frame : s.popHead.frame = s.frame := rfl

theorem State.refuse_frame (m : MasterIx) (t : Tag) (a : Option UpAddr) (k : ReqKind) (st : RefusalStatus)
    (w : HeadWait) : (s.refuse m t a k st w).frame = s.frame := by
  unfold State.refuse
  dsimp only
  split
  · split
    · simp
    · rfl
  · rfl

theorem State.dropWrite_frame (m : MasterIx) (a : UpAddr) (f : FaultKind) (k : DeferredKind) :
    (s.dropWrite m a f k).frame = s.frame := by
  simp [State.dropWrite]

theorem State.freeEntryWait_frame : s.freeEntryWait.frame = s.frame := by
  unfold State.freeEntryWait
  refine (State.closeRequest?_frame _ _).trans ?_
  split <;> rfl

theorem State.offerRead_frame (L p n : Nat) (m : MasterIx) (t : Tag) : (s.offerRead L p n m t).frame = s.frame := by
  unfold State.offerRead
  dsimp only
  split
  · split <;> rfl
  · split
    · exact State.attachFill_frame _ _ L
    · rfl

theorem State.offerWrite_frame (L p : Nat) (bytes : List Byte) (m : MasterIx) (attr : Attr) :
    (s.offerWrite L p bytes m attr).frame = s.frame := by
  unfold State.offerWrite
  split
  · exact State.afterWrite_frame _ _ attr
  · split
    · rfl
    · split
      · exact (State.pressure_frame _).trans (State.afterWrite_frame _ _ attr)
      · exact s.freeEntryWait_frame

theorem State.offerBitOp_frame (L p : Nat) (k : BitKind) (operand : List Byte) (m : MasterIx) (t : Tag) :
    (s.offerBitOp L p k operand m t).frame = s.frame := by
  unfold State.offerBitOp
  split
  · exact s.closeRequest?_frame _
  · split <;> rfl

theorem State.offerBarrier_frame (m : MasterIx) (t : Tag) : (s.offerBarrier m t).frame = s.frame := by
  unfold State.offerBarrier
  dsimp only
  split
  · split <;> rfl
  · exact State.closeAll_frame _ _

theorem State.examineRead_frame (m : MasterIx) (t : Tag) (a : UpAddr) (n : Nat) :
    (s.examineRead m t a n).frame = s.frame := by
  unfold State.examineRead
  split
  · exact s.refuse_frame _ _ _ _ _ _
  · split
    · exact s.refuse_frame _ _ _ _ _ _
    · split
      · exact s.refuse_frame _ _ _ _ _ _
      · split
        · exact s.refuse_frame _ _ _ _ _ _
        · exact s.refuse_frame _ _ _ _ _ _
        · exact s.offerRead_frame _ _ _ _ _

theorem State.examineWrite_frame (m : MasterIx) (a : UpAddr) (bytes : List Byte) :
    (s.examineWrite m a bytes).frame = s.frame := by
  unfold State.examineWrite
  split
  · exact s.dropWrite_frame _ _ _ _
  · split
    · exact s.dropWrite_frame _ _ _ _
    · split
      · exact s.dropWrite_frame _ _ _ _
      · exact s.dropWrite_frame _ _ _ _
      · exact s.offerWrite_frame _ _ _ _ _

theorem State.examineBitOp_frame (k : BitKind) (m : MasterIx) (t : Tag) (a : UpAddr) (operand : List Byte) :
    (s.examineBitOp k m t a operand).frame = s.frame := by
  unfold State.examineBitOp
  split
  · exact s.refuse_frame _ _ _ _ _ _
  · split
    · exact s.refuse_frame _ _ _ _ _ _
    · split
      · exact s.refuse_frame _ _ _ _ _ _
      · split
        · exact s.refuse_frame _ _ _ _ _ _
        · exact s.refuse_frame _ _ _ _ _ _
        · split
          · exact s.refuse_frame _ _ _ _ _ _
          · exact s.offerBitOp_frame _ _ _ _ _ _

theorem State.examineBarrier_frame (m : MasterIx) (t : Tag) : (s.examineBarrier m t).frame = s.frame := by
  unfold State.examineBarrier
  split
  · exact s.refuse_frame _ _ _ _ _ _
  · split
    · exact s.refuse_frame _ _ _ _ _ _
    · split
      · exact s.refuse_frame _ _ _ _ _ _
      · exact s.offerBarrier_frame _ _

theorem State.offerHead_frame : s.offerHead.frame = s.frame := by
  unfold State.offerHead
  split
  · rfl
  · exact s.examineRead_frame _ _ _ _
  · exact s.examineWrite_frame _ _ _
  · exact s.examineBitOp_frame _ _ _ _ _
  · exact s.examineBarrier_frame _ _

/-! ### Dispatch and issue -/

theorem State.startWork_frame (w : Work) : (s.startWork w).frame = s.frame := by
  cases w with
  | drain d e =>
    simp only [State.startWork, State.startDrain]
    split
    · split <;> rfl
    · rfl
  | bitop i =>
    simp only [State.startWork, State.startBitOp]
    split <;> rfl
  | fill readers => rfl
  | scrub => rfl

theorem State.takeOp_frame (k : LaneIx) (i : Nat) : (s.takeOp k i).frame = s.frame := by
  unfold State.takeOp
  split
  · rfl
  · next o _ => exact State.startWork_frame { s with opList := s.opList.take i k } o.work

theorem State.dispatch_frame : s.dispatch.frame = s.frame := by
  unfold State.dispatch
  split
  · exact s.takeOp_frame _ _
  · rfl

theorem State.issue_frame : s.issue.frame = s.frame := by
  unfold State.issue
  split <;> rfl

/-! ### The event -/

/-- Quiesce completion and restart clearing change the state controller and stop the scrubber; every step keeps the
settings. -/
theorem State.runInternal_settings (i : Internal) : (s.runInternal i).settings = s.settings := by
  cases i with
  | placeRead i => exact State.settings_of_frame (s.placeRead_frame i)
  | placeBit i => exact State.settings_of_frame (s.placeBit_frame i)
  | placeBarrier m => exact State.settings_of_frame (s.placeBarrier_frame m)
  | offer => exact State.settings_of_frame s.offerHead_frame
  | dispatch => exact State.settings_of_frame s.dispatch_frame
  | issue => exact State.settings_of_frame s.issue_frame
  | quiesced => rfl
  | clear => rfl

theorem State.settle_settings : s.settle.settings = s.settings :=
  State.settle_keeps (P := fun t => t.settings = s.settings) (fun t i _ h => (t.runInternal_settings i).trans h)
    (fun _ h => h) rfl

end Frames

/-- Settles O16: the settings are what the statement lists, and every step of an event keeps them. -/
theorem settleFrame : Obligations.SettleFrame := fun s => by
  simpa only [State.settings, Settings.mk.injEq] using s.settle_settings

end Sys2Proof.Machine

/-! ## Every step keeps the laws of the bridge states (R125, R151, R153, R156) -/

namespace Sys2Proof.Machine

/-! ### Operations that leave the state controller and the scrubber alone -/

section Completions
variable (s : State)

theorem State.goOn_frame (k : LaneIx) (L : Nat) (bytes : LineBytes) (f : Option FaultRecord) :
    (s.goOn k L bytes f).frame = s.frame := by
  unfold State.goOn
  split
  · rfl
  · exact s.logFault?_frame f

theorem State.answerReaders_frame (readers : List ReadIx) (f : ReadReq → RecordStatus × List Byte) :
    (s.answerReaders readers f).frame = s.frame := by
  unfold State.answerReaders
  dsimp only
  split <;> rfl

theorem State.completeBitOp_frame (k : LaneIx) (i : BitIx) (st : RecordStatus) (d : List Byte)
    (f : Option FaultRecord) : (s.completeBitOp k i st d f).frame = s.frame := by
  unfold State.completeBitOp
  dsimp only
  refine (State.logFault?_frame _ f).trans ?_
  split <;> rfl

theorem State.completeScrub_frame (k : LaneIx) (f : Option FaultRecord) : (s.completeScrub k f).frame = s.frame :=
  (s.removeLaneOp k).logFault?_frame f

theorem State.commitSuccessor_frame (L : Nat) : (s.commitSuccessor L).frame = s.frame := by
  unfold State.commitSuccessor
  split
  · split <;> rfl
  · rfl

theorem State.drainSucceeds_frame (e : EntryIx) : (s.drainSucceeds e).frame = s.frame := by
  unfold State.drainSucceeds
  dsimp only
  split
  · rfl
  · split
    · exact State.commitSuccessor_frame _ _
    · rfl

theorem State.fold_frame (e : EntryIx) (L : Nat) : (s.fold e L).frame = s.frame := by
  unfold State.fold
  split <;> rfl

@[simp] theorem State.leaveWaitSets_frame (e : EntryIx) : (s.leaveWaitSets e).frame = s.frame := rfl

theorem State.drainFails_frame (e : EntryIx) (r : HeldReason) (op : OpKind × BitVec 16) (w : Option WordIx) :
    (s.drainFails e r op w).frame = s.frame := by
  unfold State.drainFails
  dsimp only
  split
  · rfl
  · split
    · simp only [State.raise_frame, State.logFault_frame, State.leaveWaitSets_frame, State.fold_frame]
      rfl
    · rfl

theorem State.completeDrain_frame (k : LaneIx) (o : Operation) (e : EntryIx) (r : Option HeldReason)
    (w : Option WordIx) : (s.completeDrain k o e r w).frame = s.frame := by
  cases r with
  | none => exact (s.removeLaneOp k).drainSucceeds_frame e
  | some r => exact (s.removeLaneOp k).drainFails_frame e r o.label w

theorem State.discard_frame (e : EntryIx) : (s.discard e).frame = s.frame := by
  unfold State.discard
  split <;> rfl

theorem State.recommit_frame (e : EntryIx) (k : DrainKind) : (s.recommit e k).frame = s.frame := by
  unfold State.recommit
  dsimp only
  split <;> rfl

end Completions

/-- The end of a fill: its readers answered, its fault logged, its lane IDLE (R67-R69). -/
theorem State.endFill_frame (s : State) (k : LaneIx) (readers : List ReadIx) (g : ReadReq → RecordStatus × List Byte)
    (f : Option FaultRecord) :
    ((((s.removeLaneOp k).answerReaders readers g).logFault? f).setLane k .idle).frame = s.frame :=
  (State.logFault?_frame _ f).trans ((s.removeLaneOp k).answerReaders_frame readers g)

/-! ### Quiesce completion (R156) -/

theorem CombineBuffer.count_eq_zero_iff {b : CombineBuffer} {st : EntryState} :
    b.count st = 0 ↔ ∀ e : EntryIx, b.entries[e].state ≠ st := by
  simp [CombineBuffer.count, countFin_zero]

theorem EntryState.settled_iff {st : EntryState} :
    st = .free ∨ st = .held ↔ st ≠ .opened ∧ st ≠ .committed ∧ st ≠ .draining := by
  cases st <;> simp

/-- The quiesce completion condition: no work in hand, every entry FREE or HELD, the port IDLE (R156). -/
theorem State.quiesceHolds_iff {s : State} : s.quiesceHolds = true ↔
    s.noWork ∧ (∀ e : EntryIx, s.buffer.entries[e].state = .free ∨ s.buffer.entries[e].state = .held) ∧
      s.port.condition = .idle := by
  simp only [State.quiesceHolds, State.noWork, Bool.and_eq_true, beq_iff_eq,
    CombineBuffer.count_eq_zero_iff, countFin_zero, Bool.not_eq_false', ReadRec.isFree_iff, BitRec.isFree_iff, List.isEmpty_iff, EntryState.settled_iff, forall_and]
  tauto

theorem State.quiesceDue_iff {s : State} :
    s.quiesceDue = true ↔ s.control.bridge = .quiescing ∧ s.quiesceHolds = true := by
  simp only [State.quiesceDue, Bool.and_eq_true, beq_iff_eq]

/-! ### The scrub interval timer and the halt cause (R125, R151) -/

/-- R125 and R151: what the bridge state, the halt cause and the scrubber say of each other. -/
def State.clockLaw (s : State) : Prop := s.scrubTimerLaw ∧ s.control.causeLaw

section Clock
variable {s t : State}

theorem State.clockLaw.of_frame (h : s.clockLaw) (hf : t.frame = s.frame) : t.clockLaw := by
  unfold State.clockLaw State.scrubTimerLaw at h ⊢
  rwa [State.control_of_frame hf, State.scrub_of_frame hf]

/-- Outside RUN with the timer idle the timer's law holds, and outside HALTED without a halt cause the cause's. -/
theorem State.clockLaw_of_idle (hb : t.control.bridge ≠ .run) (ht : t.scrub.timer = none) (hc : t.control.causeLaw) :
    t.clockLaw :=
  ⟨⟨fun h => absurd h (by simp [ht]), fun h => absurd h.1 hb⟩, hc⟩

theorem Control.causeLaw.haltCause_none {c : Control} (h : c.causeLaw) (hh : c.bridge ≠ .halted)
    (hr : c.bridge ≠ .restarting) : c.haltCause = none :=
  Option.not_isSome_iff_eq_none.mp fun hs => (h.2 hs).elim hh hr

theorem Control.causeLaw_of_none {c : Control} (hb : c.bridge ≠ .halted) (hc : c.haltCause = none) : c.causeLaw :=
  ⟨fun h => absurd h hb, fun h => absurd h (by simp [hc])⟩

theorem State.scrubTimerLaw.timer_none (h : s.scrubTimerLaw) (hb : s.control.bridge ≠ .run) : s.scrub.timer = none :=
  Option.not_isSome_iff_eq_none.mp fun hs => hb (h.mp hs).1

theorem State.clockLaw.loadScrubTimer (h : s.clockLaw) (ht : s.scrub.timer.isSome = true) : s.loadScrubTimer.clockLaw :=
  ⟨⟨fun _ => h.1.mp ht, fun _ => rfl⟩, h.2⟩

theorem State.clockLaw.advanceScrub (h : s.clockLaw) : s.advanceScrub.clockLaw := by
  unfold State.advanceScrub
  split <;> exact h

theorem State.advanceScrub_control : s.advanceScrub.control = s.control := by
  unfold State.advanceScrub
  split <;> rfl

theorem State.advanceScrub_timer : s.advanceScrub.scrub.timer = s.scrub.timer := by
  unfold State.advanceScrub
  split <;> rfl

/-- RELEASE in QUIESCED returns the bridge to QUIESCING, with the timer idle and no halt cause as before (R105). -/
theorem State.clockLaw.backToQuiescing (h : s.clockLaw) : s.backToQuiescing.clockLaw := by
  obtain ⟨htimer, hcause⟩ := id h
  unfold State.backToQuiescing
  split
  · next hb =>
    refine State.clockLaw_of_idle nofun (htimer.timer_none (by simp [hb])) (Control.causeLaw_of_none nofun ?_)
    exact hcause.haltCause_none (by simp [hb]) (by simp [hb])
  · exact h

end Clock

/-- Every change keeps the laws of the timer and of the halt cause. -/
theorem Change.clockLaw {s t : State} (hc : Change s t) (h : s.clockLaw) : t.clockLaw := by
  obtain ⟨htimer, hcause⟩ := id h
  cases hc with
  | starts hb =>
    have hnone : s.control.haltCause = none :=
      hcause.haltCause_none (by rcases hb with hb | hb <;> simp [hb]) (by rcases hb with hb | hb <;> simp [hb])
    split
    · next hr => exact ⟨⟨fun _ => ⟨rfl, hr⟩, fun _ => rfl⟩, Control.causeLaw_of_none nofun hnone⟩
    · next hr => exact ⟨⟨nofun, fun hrun => absurd hrun.2 hr⟩, Control.causeLaw_of_none nofun hnone⟩
  | quiesces hb =>
    exact State.clockLaw_of_idle nofun rfl
      (Control.causeLaw_of_none nofun (hcause.haltCause_none (by simp [hb]) (by simp [hb])))
  | configures hb _ =>
    exact State.clockLaw_of_idle nofun (htimer.timer_none (by simp [hb]))
      (Control.causeLaw_of_none nofun (hcause.haltCause_none (by simp [hb]) (by simp [hb])))
  | completesQuiesce hq =>
    have hb := (State.quiesceDue_iff.mp hq).1
    exact State.clockLaw_of_idle nofun (htimer.timer_none (by simp [hb]))
      (Control.causeLaw_of_none nofun (hcause.haltCause_none (by simp [hb]) (by simp [hb])))
  | halts c _ _ => exact State.clockLaw_of_idle nofun rfl ⟨fun _ => rfl, fun _ => .inl rfl⟩
  | restarts => exact State.clockLaw_of_idle nofun rfl ⟨nofun, fun _ => .inr rfl⟩
  | clears _ | powersOn => exact State.clockLaw_of_idle nofun rfl (Control.causeLaw_of_none nofun rfl)
  | appendsScrub ht _ =>
    have hadvanced : ((s.appendOp .scrub s.scrub.position).advanceScrub).clockLaw :=
      State.clockLaw.advanceScrub (s := s.appendOp .scrub s.scrub.position) h
    exact hadvanced.loadScrubTimer (State.advanceScrub_timer (s := s.appendOp .scrub s.scrub.position) ▸ ht)
  | skipsScrub ht => exact h.loadScrubTimer ht
  | startsScrub hb => exact ⟨⟨fun _ => ⟨hb, rfl⟩, fun _ => rfl⟩, hcause⟩
  | stopsScrub => exact ⟨⟨nofun, fun hrun => absurd hrun.2 Bool.false_ne_true⟩, hcause⟩
  | ticks => exact ⟨by simpa [State.scrubTimerLaw, State.runTimers, tickTimer] using htimer, hcause⟩
  | recommits e k _ _ => exact (h.of_frame (s.recommit_frame e k)).backToQuiescing
  | discards e _ => exact h.of_frame (s.discard_frame e)
  | logs r => exact h.of_frame (s.logFault_frame r)
  | takesRead r q _ _ => exact h.of_frame ((s.setRead r _).attachFill_frame r q.line)
  | placesRead i _ => exact h.of_frame (s.placeRead_frame i)
  | placesBit i _ => exact h.of_frame (s.placeBit_frame i)
  | dispatches k i _ => exact h.of_frame (s.takeOp_frame k i)
  | issues _ => exact h.of_frame s.issue_frame
  | goesOn k o L bytes f _ => exact h.of_frame (s.goOn_frame k L bytes f)
  | endsDrain k o d e r w _ _ => exact h.of_frame (s.completeDrain_frame k o e r w)
  | endsFill k o readers g f _ _ => exact h.of_frame (s.endFill_frame k readers g f)
  | endsBitOp k o i st d f _ _ => exact h.of_frame (s.completeBitOp_frame k i st d f)
  | endsScrub k o f _ _ => exact h.of_frame (s.completeScrub_frame k f)
  | _ => exact h

/-! ### No work at rest (R153, R156) -/

/-- CONFIG and QUIESCED, the states in which no work may be in hand. -/
def BridgeState.rests (b : BridgeState) : Prop := b = .config ∨ b = .quiesced

/-- R153 and R156: what the bridge holds in CONFIG and in QUIESCED. -/
def State.restLaw (s : State) : Prop := s.configLaw ∧ s.quiescedLaw

section Rest
variable {s t : State}

theorem State.restLaw_of_busy (h : ¬t.control.bridge.rests) : t.restLaw :=
  ⟨fun hc => absurd (.inl hc) h, fun hq => absurd (.inr hq) h⟩

/-- A state that came from one not at rest without a transition. -/
theorem State.restLaw_of_frame (h : ¬s.control.bridge.rests) (hf : t.frame = s.frame) : t.restLaw :=
  State.restLaw_of_busy (State.control_of_frame hf ▸ h)

theorem State.restLaw.noWork (h : s.restLaw) (hb : s.control.bridge.rests) : s.noWork :=
  hb.elim (fun hc => (h.1 hc).1) fun hq => (h.2 hq).1

/-- A change that makes no work and leaves every entry in its state. -/
theorem State.restLaw.of_work (h : s.restLaw) (hb : t.control.bridge = s.control.bridge) (hw : s.noWork → t.noWork)
    (he : ∀ e : EntryIx, t.buffer.entries[e].state = s.buffer.entries[e].state) : t.restLaw := by
  unfold State.restLaw State.configLaw State.quiescedLaw at h ⊢
  simp only [hb, he]
  exact ⟨fun hc => (h.1 hc).imp_left hw, fun hq => (h.2 hq).imp_left hw⟩

theorem State.restLaw.free_of_config (h : s.restLaw) (hc : s.control.bridge = .config) (e : EntryIx) :
    s.buffer.entries[e].state = .free :=
  (h.1 hc).2 e

theorem State.restLaw.busy_of_entry (h : s.restLaw) {e : EntryIx} (hf : s.buffer.entries[e].state ≠ .free)
    (hh : s.buffer.entries[e].state ≠ .held) : ¬s.control.bridge.rests := by
  rintro (hc | hq)
  · exact hf (h.free_of_config hc e)
  · exact ((h.2 hq).2 e).elim hf hh

theorem State.restLaw.busy_of_op (h : s.restLaw) {k : LaneIx} {o : Operation} (ho : s.laneOp k = some o) :
    ¬s.control.bridge.rests := fun hb => by
  obtain ⟨hmem, -⟩ := s.laneOp_spec ho
  rw [(h.noWork hb).1] at hmem
  exact absurd hmem List.not_mem_nil

/-- A record that holds a response is in use, so none is at rest. -/
theorem State.restLaw.placeRead (h : s.restLaw) (i : ReadIx) : (s.placeRead i).restLaw := by
  unfold State.placeRead
  split
  · next r st d hr =>
    refine State.restLaw_of_busy fun hb => ?_
    obtain ⟨-, hreads, -⟩ := h.noWork hb
    exact absurd (hr.symm.trans (hreads i)) nofun
  · exact h

theorem State.restLaw.placeBit (h : s.restLaw) (i : BitIx) : (s.placeBit i).restLaw := by
  unfold State.placeBit
  split
  · next b st d hr =>
    refine State.restLaw_of_busy fun hb => ?_
    obtain ⟨-, -, hbits⟩ := h.noWork hb
    exact absurd (hr.symm.trans (hbits i)) nofun
  · exact h

theorem State.noWork.keepOld (h : s.noWork) (i : BitIx) (old : List Byte) :
    (s.setBit i (s.bitops[i].keepOld old)).noWork := by
  obtain ⟨hops, hreads, hbits⟩ := h
  refine ⟨hops, hreads, fun j => (getElem_set_fin s.bitops i j _).trans ?_⟩
  rw [hbits i, hbits j]
  exact ite_self _

theorem State.noWork.keepOps (h : s.noWork) (p : Operation → Bool) : (s.keepOps p).noWork := by
  obtain ⟨hops, hrecords⟩ := h
  exact ⟨by simp [hops], hrecords⟩

theorem State.noWork.busReset (h : s.noWork) : s.busReset.noWork := by
  obtain ⟨hops, hreads, hbits⟩ := h
  exact ⟨by simp [State.busReset, hops],
    fun i => (Vector.getElem_ofFn _).trans (congrArg (ReadRec.busReset _) (hreads i)),
    fun i => (Vector.getElem_ofFn _).trans (congrArg BitRec.busReset (hbits i))⟩

/-- The states that the clearing step and power-on leave: nothing in hand and every entry FREE (R153, R161). -/
theorem State.restLaw_of_empty (hw : t.noWork) (he : ∀ e : EntryIx, t.buffer.entries[e].state = .free) : t.restLaw :=
  ⟨fun _ => ⟨hw, he⟩, fun _ => ⟨hw, fun e => .inl (he e)⟩⟩

theorem State.clear_noWork : s.clear.noWork :=
  ⟨rfl, fun _ => Vector.getElem_replicate _, fun _ => Vector.getElem_replicate _⟩

theorem State.clear_entry (e : EntryIx) : s.clear.buffer.entries[e] = Entry.free := Vector.getElem_replicate _

theorem State.reset_noWork : State.reset.noWork :=
  ⟨rfl, fun _ => Vector.getElem_replicate _, fun _ => Vector.getElem_replicate _⟩

theorem State.reset_entry (e : EntryIx) : State.reset.buffer.entries[e] = Entry.free := Vector.getElem_replicate _

/-- A released entry is FREE, which the law of QUIESCED lets it be (R102, R156). -/
theorem State.restLaw.discard (h : s.restLaw) {e : EntryIx} (he : s.buffer.entries[e].state = .held) :
    (s.discard e).restLaw := by
  unfold State.discard
  split
  · exact h
  · next L _ =>
    refine ⟨fun hc => absurd (he.symm.trans (h.free_of_config hc e)) nofun, fun hq => (h.2 hq).imp_right fun hrest j => ?_⟩
    have hj : (s.freeEntry e L).buffer.entries[j] = if e = j then Entry.free else s.buffer.entries[j] :=
      getElem_set_fin s.buffer.entries e j Entry.free
    rw [State.wake_buffer, hj]
    split
    · exact .inl rfl
    · exact hrest j

/-- A HELD entry committed again takes the bridge out of QUIESCED, and in CONFIG there is none (R103-R105). -/
theorem State.restLaw.recommit (h : s.restLaw) {e : EntryIx} (k : DrainKind) (he : s.buffer.entries[e].state = .held) :
    (s.recommit e k).backToQuiescing.restLaw := by
  have hc : s.control.bridge ≠ .config := fun hc => absurd (he.symm.trans (h.free_of_config hc e)) nofun
  have hctl : (s.recommit e k).control = s.control := State.control_of_frame (s.recommit_frame e k)
  refine State.restLaw_of_busy ?_
  unfold State.backToQuiescing
  split
  · exact fun hb => hb.elim nofun nofun
  · next hq => exact fun hb => hb.elim (hctl ▸ hc) hq

end Rest

/-- Every change keeps the laws of CONFIG and QUIESCED: work begins in RUN, a change of an entry on its way or of an
operation finds the bridge not at rest, and a transition into CONFIG or QUIESCED has its condition. -/
theorem Change.restLaw {s t : State} (hc : Change s t) (h : s.restLaw) (ht : s.scrubTimerLaw) : t.restLaw := by
  have hrun : s.control.bridge = .run → ¬s.control.bridge.rests := fun hr => by simp [BridgeState.rests, hr]
  cases hc with
  | stores _ _ _ _ _ hr _ _ _ | allocates _ _ _ _ _ hr _ _ _ _ _ => exact State.restLaw_of_frame (hrun hr) rfl
  | takesRead r q hr _ =>
    exact State.restLaw_of_frame (hrun hr) ((s.setRead r _).attachFill_frame r q.line)
  | takesBitOp i b hr _ _ => exact State.restLaw_of_frame (hrun hr) rfl
  | commits e L ho _ _ | pends e ho | ages e ho _ =>
    exact State.restLaw_of_frame (h.busy_of_entry (ho.trans_ne nofun) (ho.trans_ne nofun)) rfl
  | discards e he => exact h.discard he
  | recommits e k he _ => exact h.recommit k he
  | placesRead i _ => exact h.placeRead i
  | placesBit i _ => exact h.placeBit i
  | keepsOld i old => exact h.of_work rfl (fun hw => hw.keepOld i old) fun _ => rfl
  | dispatches k i hd =>
    have hb := BridgeState.dispatches_iff.mp (State.dispatchChoice_some.mp hd).1
    exact State.restLaw_of_frame (by rcases hb with hb | hb <;> simp [BridgeState.rests, hb]) (s.takeOp_frame k i)
  | issues _ =>
    unfold State.issue
    split <;> exact h
  | goesOn k o L bytes f ho => exact State.restLaw_of_frame (h.busy_of_op ho) (s.goOn_frame k L bytes f)
  | endsDrain k o d e r w ho _ => exact State.restLaw_of_frame (h.busy_of_op ho) (s.completeDrain_frame k o e r w)
  | endsFill k o readers g f ho _ => exact State.restLaw_of_frame (h.busy_of_op ho) (s.endFill_frame k readers g f)
  | endsBitOp k o i st d f ho _ => exact State.restLaw_of_frame (h.busy_of_op ho) (s.completeBitOp_frame k i st d f)
  | endsScrub k o f ho _ => exact State.restLaw_of_frame (h.busy_of_op ho) (s.completeScrub_frame k f)
  | starts _ => split <;> exact State.restLaw_of_busy fun hb => hb.elim nofun nofun
  | quiesces _ | halts _ _ _ | restarts => exact State.restLaw_of_busy fun hb => hb.elim nofun nofun
  | configures hq hheld =>
    obtain ⟨hwork, hentries⟩ := h.2 hq
    have hnone := CombineBuffer.count_eq_zero_iff.mp hheld
    exact State.restLaw_of_empty hwork fun e => (hentries e).resolve_right (hnone e)
  | completesQuiesce hq =>
    obtain ⟨hwork, hentries, -⟩ := State.quiesceHolds_iff.mp (State.quiesceDue_iff.mp hq).2
    exact ⟨nofun, fun _ => ⟨hwork, hentries⟩⟩
  | clears _ => exact State.restLaw_of_empty s.clear_noWork fun e => congrArg Entry.state (s.clear_entry e)
  | powersOn => exact State.restLaw_of_empty State.reset_noWork fun e => congrArg Entry.state (State.reset_entry e)
  | appendsScrub hs _ =>
    have hb : (s.appendOp .scrub s.scrub.position).advanceScrub.control = s.control := State.advanceScrub_control
    exact State.restLaw_of_busy (t := State.loadScrubTimer _) (hb ▸ hrun (ht.mp hs).1)
  | stopsScrub => exact h.of_work rfl (fun hw => State.noWork.keepOps hw _) fun _ => rfl
  | ticks => exact h.of_work rfl id fun e => by simp [State.runTimers, Entry.tick]
  | resetsBus => exact h.of_work rfl (fun hw => hw.busReset) fun _ => rfl
  | _ => exact h

/-- Settles O12: each change keeps the laws of the timer and the halt cause, and with the timer's those of CONFIG and
QUIESCED. -/
theorem bridgeStateLawsAreKept : Obligations.BridgeStateLawsAreKept := by
  rintro s t ⟨hconfig, hquiesced, htimer, hcause⟩ hs
  have hkept : t.restLaw ∧ t.clockLaw := step_keeps (P := fun u => u.restLaw ∧ u.clockLaw)
    (fun _ _ hc hu => ⟨hc.restLaw hu.1 hu.2.1, hc.clockLaw hu.2⟩) (fun _ _ hu => hu) hs
    ⟨⟨hconfig, hquiesced⟩, htimer, hcause⟩
  obtain ⟨⟨hconfig', hquiesced'⟩, htimer', hcause'⟩ := hkept
  exact ⟨hconfig', hquiesced', htimer', hcause'⟩

end Sys2Proof.Machine

/-! ## Quiesce completion, restart clearing, the five state commands and power-on reset (R15, R151-R161, R183) -/

namespace Sys2Proof.Machine

/-! ### Quiesce completion and restart clearing (R156, R161) -/

section Clearing
variable {s : State}

theorem exec_quiesceComplete (h : s.quiesceDue = true) : exec .quiesceComplete s = .next s.enterQuiesced.settle :=
  congrArg Host.Outcome.next (if_pos h)

theorem exec_restartClearing (h : s.clearDue = true) : exec .restartClearing s = .next s.clear.settle :=
  congrArg Host.Outcome.next (if_pos h)

theorem State.clearDue_iff : s.clearDue = true ↔ s.control.bridge = .restarting ∧ s.port.condition = .idle := by
  simp only [State.clearDue, Bool.and_eq_true, beq_iff_eq]

/-- Without records in use no response waits for a slot but a finished barrier's. -/
theorem State.readyRead_of_noWork (h : s.noWork) : s.readyRead = none := by
  obtain ⟨-, hreads, -⟩ := h
  exact State.readyRead_none fun j r st d hj => absurd ((hreads j).symm.trans hj) nofun

theorem State.readyBit_of_noWork (h : s.noWork) : s.readyBit = none := by
  obtain ⟨-, -, hbits⟩ := h
  exact State.readyBit_none fun j b st d hj => absurd ((hbits j).symm.trans hj) nofun

theorem State.finishedBarrier_none (h : ∀ m : MasterIx, s.masters[m].barrier = none) : s.finishedBarrier = none :=
  lowestFin_none.mpr fun m => Bool.eq_false_iff.mpr fun hf => by
    obtain ⟨t, ht⟩ := MasterCtx.finished_iff.mp hf
    exact absurd ((h m).symm.trans ht) nofun

theorem State.offerIsDue_of_empty (h : s.upstream.intake = []) : s.offerIsDue = false := by
  simp [State.offerIsDue, h]

theorem State.dispatchChoice_of_not (h : s.control.bridge.dispatches = false) : s.dispatchChoice = none := by
  simp [State.dispatchChoice, h]

theorem State.clear_master (m : MasterIx) : s.clear.masters[m] = MasterCtx.reset := Vector.getElem_replicate _

/-- The clearing step leaves nothing due: no response waits, no request is queued, and CONFIG neither dispatches nor
issues (R153, R161). -/
theorem State.clear_nextInternal : s.clear.nextInternal = none := by
  have hgrant : s.clear.nextGrant = none := by
    have hbarrier : s.clear.finishedBarrier = none :=
      State.finishedBarrier_none fun m => congrArg MasterCtx.barrier (State.clear_master m)
    simp [State.nextGrant, State.readyRead_of_noWork s.clear_noWork, State.readyBit_of_noWork s.clear_noWork,
      State.barrierDue, hbarrier]
  exact State.nextInternal_none_iff.mpr ⟨rfl, ⟨hgrant, State.offerIsDue_of_empty rfl⟩, State.dispatchChoice_of_not rfl,
    State.issueDue_of_not (.inr rfl), State.quiesceDue_of_ne nofun⟩

end Clearing

/-- Settles O46: each command finds its step due, and the clearing step ends its event. -/
theorem quiesceCompletesAndRestartClears : Obligations.QuiesceCompletesAndRestartClears := by
  refine fun s hport => ⟨fun hb hwork hentries => ?_, fun hb => ?_⟩
  · have hholds : s.quiesceHolds = true := State.quiesceHolds_iff.mpr ⟨hwork, hentries, hport⟩
    exact exec_quiesceComplete (State.quiesceDue_iff.mpr ⟨hb, hholds⟩)
  · rw [exec_restartClearing (State.clearDue_iff.mpr ⟨hb, hport⟩), State.settle_of_none State.clear_nextInternal]
    rfl

/-! ### START, QUIESCE, CONFIGURE, HALT and RESTART (R152, R154, R155, R157, R158, R160) -/

section Commands
variable {s : State}

/-- START checks the region map, and enters RUN when it is valid (R154). -/
theorem exec_start_valid (hb : s.control.bridge = .config ∨ s.control.bridge = .quiesced)
    (hv : s.regionMap.validate = none) : exec (.start []) s = .next (s.startRun.reply .ok []) := by
  refine congrArg Host.Outcome.next ((State.replied_of_accepted _ (by simpa using hb)).trans ?_)
  simp only [hv]
  rfl

/-- START with an invalid region map answers BAD-CONFIG with the check that failed (R15, R183). -/
theorem exec_start_invalid {f : ConfigFailure} (hb : s.control.bridge = .config ∨ s.control.bridge = .quiesced)
    (hv : s.regionMap.validate = some f) : exec (.start []) s = .next (s.reply .badConfig f.layout) := by
  refine congrArg Host.Outcome.next ((State.replied_of_accepted _ (by simpa using hb)).trans ?_)
  simp only [hv]
  rfl

theorem State.startRun_eq (s : State) : s.startRun = State.settle { s with
    control := { s.control with bridge := .run }
    scrub := { s.scrub with timer := if s.scrub.running then some s.scrub.interval else none }
    upstream := { s.upstream with offerDue := !s.upstream.intake.isEmpty } } := by
  refine congrArg State.settle ?_
  rw [State.setBridge_scrub]
  by_cases hr : s.scrub.running = true
  · rw [if_pos hr, if_pos hr]
    rfl
  · rw [if_neg hr, if_neg hr]
    rfl

/-- QUIESCE is accepted in RUN, QUIESCING and QUIESCED, and acts in RUN (R152, R155). -/
theorem exec_quiesce_run (hb : s.control.bridge = .run) :
    exec (.quiesce []) s = .next (s.startQuiesce.reply .ok []) := by
  refine congrArg Host.Outcome.next ((State.replied_of_accepted _ (by simp [hb])).trans ?_)
  rw [if_pos hb]
  rfl

theorem exec_quiesce_begun (hb : s.control.bridge = .quiescing ∨ s.control.bridge = .quiesced) :
    exec (.quiesce []) s = .next (s.reply .ok []) := by
  have hrun : s.control.bridge ≠ .run := by rcases hb with hb | hb <;> simp [hb]
  refine congrArg Host.Outcome.next ((State.replied_of_accepted _ (by rcases hb with hb | hb <;> simp [hb])).trans ?_)
  rw [if_neg hrun]
  rfl

theorem exec_configure (hb : s.control.bridge = .quiesced) (hheld : ∀ e : EntryIx, s.buffer.entries[e].state ≠ .held) :
    exec (.configure []) s = .next (s.startConfig.reply .ok []) :=
  congrArg Host.Outcome.next (State.replied_of_accepted (fun s => s.startConfig.okay)
    (by simp [hb, CombineBuffer.count_eq_zero_iff.mpr hheld]))

theorem exec_halt (hh : s.control.bridge ≠ .halted) (hr : s.control.bridge ≠ .restarting) :
    exec (.halt []) s = .next (s.haltCommand.reply .ok []) :=
  congrArg Host.Outcome.next (State.replied_of_accepted (fun s => s.haltCommand.okay)
    (by simp [hh, State.notRestarting_of hr]))

theorem exec_restart (hr : s.control.bridge ≠ .restarting) :
    exec (.restart []) s = .next (s.startRestart.reply .ok []) :=
  congrArg Host.Outcome.next (State.replied_of_accepted (fun s => s.startRestart.okay) (State.notRestarting_of hr))

/-! Each command in the bridge states that do not accept it (R152). -/

theorem exec_start_badState (hc : s.control.bridge ≠ .config) (hq : s.control.bridge ≠ .quiesced) :
    exec (.start []) s = .next (s.reply .badState []) :=
  congrArg Host.Outcome.next (State.replied_of_not_accepted _ (by simp [hc, hq]))

theorem exec_quiesce_badState
    (hb : s.control.bridge = .config ∨ s.control.bridge = .halted ∨ s.control.bridge = .restarting) :
    exec (.quiesce []) s = .next (s.reply .badState []) :=
  congrArg Host.Outcome.next (State.replied_of_not_accepted _ (by rcases hb with hb | hb | hb <;> rw [hb] <;> rfl))

theorem exec_configure_badState
    (hb : s.control.bridge ≠ .quiesced ∨ ∃ e : EntryIx, s.buffer.entries[e].state = .held) :
    exec (.configure []) s = .next (s.reply .badState []) := by
  refine congrArg Host.Outcome.next (State.replied_of_not_accepted _ (Bool.and_eq_false_iff.mpr ?_))
  refine hb.imp beq_eq_false_iff_ne.mpr fun ⟨e, he⟩ => beq_eq_false_iff_ne.mpr fun h0 => ?_
  exact CombineBuffer.count_eq_zero_iff.mp h0 e he

theorem exec_halt_badState (hb : s.control.bridge = .halted ∨ s.control.bridge = .restarting) :
    exec (.halt []) s = .next (s.reply .badState []) :=
  congrArg Host.Outcome.next (State.replied_of_not_accepted _
    (by rcases hb with hb | hb <;> simp [State.notRestarting, hb]))

theorem exec_restart_badState (hb : s.control.bridge = .restarting) :
    exec (.restart []) s = .next (s.reply .badState []) :=
  congrArg Host.Outcome.next (State.replied_of_not_accepted _ (bne_eq_false_iff_eq.mpr hb))

end Commands

/-- Settles O47: each command by its check of the bridge state, and what it does when accepted. -/
theorem stateCommandsFollowTheBridgeState : Obligations.StateCommandsFollowTheBridgeState := by
  refine fun s => ⟨fun hb hv => ?_, fun f hb hv => ?_, exec_start_badState, exec_quiesce_run, exec_quiesce_begun,
    exec_quiesce_badState, exec_configure, exec_configure_badState, exec_halt, exec_halt_badState, exec_restart,
    exec_restart_badState⟩
  · rw [exec_start_valid hb hv, State.startRun_eq]
  · rw [exec_start_invalid hb hv]
    cases f <;> rfl

/-! ### Power-on reset (R151, R181, R182) -/

theorem State.reset_master (m : MasterIx) : State.reset.masters[m] = MasterCtx.reset := Vector.getElem_replicate _

theorem State.reset_lane (k : LaneIx) : State.reset.lanes[k] = .idle := Vector.getElem_replicate _

/-- The laws of the combine buffer with every entry FREE (R16-R18, R20). -/
theorem State.reset_bufferLaws :
    State.reset.buffer.lineLaw ∧ State.reset.buffer.entryLaw ∧ State.reset.buffer.openOrderLaw := by
  have hstate (e : EntryIx) : State.reset.buffer.entries[e].state = .free := congrArg Entry.state (State.reset_entry e)
  refine ⟨fun i j _ => ⟨fun hi => ?_, fun hi => ?_, fun hi => ?_⟩, ?_, .nil, fun i => ?_⟩
  · exact absurd ((hstate i).symm.trans hi) nofun
  · rw [hstate] at hi
    exact absurd hi Bool.false_ne_true
  · exact absurd ((hstate i).symm.trans hi) nofun
  · exact CombineBuffer.entryLaw_iff.mpr fun i => (State.reset_entry i).symm ▸ Entry.law_free
  · rw [hstate]
    exact iff_of_false List.not_mem_nil nofun

/-- The laws of the operation list and the lanes with no operation and every lane IDLE (R46-R48, R126). -/
theorem State.reset_boardLaws :
    State.reset.opList.lineLock ∧ State.reset.drainLaw ∧ State.reset.laneLaw ∧ State.reset.scrubLaw := by
  refine ⟨fun _ _ _ _ ha => absurd ha nofun, fun e => ?_, fun k => ?_, Nat.zero_le _⟩
  · rw [State.reset_entry]
    rfl
  · rw [State.reset_lane]
    rfl

/-- The laws of the masters: no barrier is recorded and no error deferred (R88, R89, R93). -/
theorem State.reset_masterLaws : State.reset.waitSetLaw ∧ State.reset.countLaw := by
  refine ⟨State.waitSetLaw_of_none fun m => congrArg MasterCtx.barrier (State.reset_master m), Nat.zero_le _,
    Nat.zero_le _, Nat.zero_le _, fun m d hd => ?_⟩
  rw [State.reset_master] at hd
  exact absurd hd nofun

/-- Settles O4: block by block; CONFIG is entered with no work in hand and every entry FREE. -/
theorem resetKeepsEveryLaw : Obligations.ResetKeepsEveryLaw := by
  obtain ⟨hline, hentry, horder⟩ := State.reset_bufferLaws
  obtain ⟨hlock, hdrain, hlane, hscrub⟩ := State.reset_boardLaws
  obtain ⟨hwait, hcount⟩ := State.reset_masterLaws
  obtain ⟨hconfig, hquiesced⟩ : State.reset.restLaw :=
    State.restLaw_of_empty State.reset_noWork fun e => congrArg Entry.state (State.reset_entry e)
  obtain ⟨htimer, hcause⟩ : State.reset.clockLaw :=
    State.clockLaw_of_idle nofun rfl (Control.causeLaw_of_none nofun rfl)
  exact ⟨hline, hentry, horder, hlock, hdrain, hlane, hscrub, hwait, rfl, ⟨Nat.zero_le _, Nat.zero_le _⟩, htimer,
    hcause, hconfig, hquiesced, ⟨Nat.zero_le _, Nat.zero_le _⟩, rfl, .inl rfl, ⟨rfl, rfl⟩, hcount⟩

/-- Settles O5: POWER_ON_RESET is `powerOn`, and the item table of the reset state is evaluated. -/
theorem powerOnResetsEveryBlock : Obligations.PowerOnResetsEveryBlock := ⟨fun _ => rfl, by decide⟩

end Sys2Proof.Machine

/-! ## What a change does to the faults, the events and the counts (R89, R108, R113, R120, R162-R173, R177) -/

namespace Sys2Proof.Machine

/-- What the laws of R89, R108, R113, R120, R163, R166-R170 and R177 speak of. -/
structure Ledger where
  faults : FaultQueue
  events : EventUnit
  deferred : MasterIx → Option Deferred
  failures : Nat
  corrected : Nat
  aborting : Bool
  abortLine : Bool
  frameErrors : Nat

def State.deferred (s : State) (m : MasterIx) : Option Deferred := s.masters[m].deferred

def State.ledger (s : State) : Ledger where
  faults := s.faults
  events := s.events
  deferred := s.deferred
  failures := s.port.failures
  corrected := s.port.correctedCount
  aborting := s.port.condition.aborts
  abortLine := s.port.abortLine
  frameErrors := s.mgmt.frameErrors

/-- Everything that can happen to them. -/
inductive LedgerMove (l : Ledger) : Ledger → Prop where
  | logs (r : FaultRecord) : LedgerMove l { l with
      faults := l.faults.offer r
      events := if l.faults.full then l.events.raise .faultOverflow else l.events }
  | drops (rs : List FaultRecord) (n : Nat) : rs.length ≤ l.faults.records.length → n ≤ l.faults.overflow →
      LedgerMove l { l with faults := { l.faults with records := rs, overflow := n } }
  | raises (e : EventSource) : LedgerMove l { l with events := l.events.raise e }
  | clears (set : SourceSet) : LedgerMove l { l with events := l.events.clear set }
  | takes (i : Fin 12) : l.events.choose = some i → LedgerMove l { l with events := l.events.take i }
  | pops : LedgerMove l { l with events := l.events.pop }
  | enables (v : SourceSet) : v.getLsbD 0 = true →
      LedgerMove l { l with events := { l.events with enable := v }.recompute }
  | levels (v : SourceSet) : v.getLsbD 0 = true →
      LedgerMove l { l with events := { l.events with urgent := v }.recompute }
  | restarts : LedgerMove l { l with events := l.events.restart }
  | defers (f : MasterIx → Option Deferred) :
      (∀ m d, f m = some d → l.deferred m = some d ∨ d.further ≤ Config.byteCountMax) →
      LedgerMove l { l with deferred := f }
  | counts (f n : Nat) : f ≤ Config.failuresMax ∨ f = l.failures → n ≤ Config.correctedMax ∨ n = l.corrected →
      LedgerMove l { l with failures := f, corrected := n }
  | setsAbort (b : Bool) : LedgerMove l { l with aborting := b, abortLine := b }
  | frames (n : Nat) : n ≤ Config.byteCountMax ∨ n = l.frameErrors → LedgerMove l { l with frameErrors := n }
  | resets : LedgerMove l State.reset.ledger

/-- A chain of moves of the ledger. -/
abbrev LedgerMoves : Ledger → Ledger → Prop := Relation.ReflTransGen LedgerMove

theorem LedgerMoves.of_eq {l l' : Ledger} (h : l' = l) : LedgerMoves l l' := h ▸ .refl

/-- What every move keeps, a chain keeps. -/
theorem LedgerMoves.keeps {P : Ledger → Prop} (hm : ∀ l l', LedgerMove l l' → P l → P l') {l l' : Ledger}
    (h : LedgerMoves l l') (p : P l) : P l' := by
  induction h with
  | refl => exact p
  | tail _ hmove ih => exact hm _ _ hmove ih

/-- A move that leads to the ledger `l'`, however it is written. -/
theorem LedgerMove.moves {l c l' : Ledger} (h : LedgerMove l c) (hc : l' = c) : LedgerMoves l l' := hc ▸ .single h

/-! ### Masters (R89) -/

/-- Recording an error leaves a further count within its maximum, whatever it was before. -/
theorem MasterCtx.record_further_le {k : DeferredKind} {c : MasterCtx} {d : Deferred} (h : (c.record k).deferred = some d) :
    d.further ≤ Config.byteCountMax := by
  unfold MasterCtx.record at h
  cases hc : c.deferred with
  | none =>
    obtain rfl : ⟨k, 0⟩ = d := by simpa [hc] using h
    exact Nat.zero_le _
  | some x =>
    obtain rfl : { x with further := saturate Config.byteCountMax x.further } = d := by simpa [hc] using h
    exact Nat.min_le_left _ _

section Masters
variable (s : State)

theorem State.updateMaster_deferred (m j : MasterIx) (f : MasterCtx → MasterCtx) :
    (s.updateMaster m f).deferred j = if m = j then (f s.masters[m]).deferred else s.deferred j := by
  rw [State.deferred, State.updateMaster_masters, getElem_set_fin, apply_ite MasterCtx.deferred]
  rfl

theorem State.mapMasters_deferred (f : MasterIx → MasterCtx → MasterCtx) (m : MasterIx) :
    (s.mapMasters f).deferred m = (f m s.masters[m]).deferred :=
  congrArg MasterCtx.deferred (s.mapMasters_get f m)

/-- A master's context changed in its tags or its barrier alone. -/
theorem State.updateMaster_ledger (m : MasterIx) {f : MasterCtx → MasterCtx} (hf : ∀ c, (f c).deferred = c.deferred) :
    (s.updateMaster m f).ledger = s.ledger := by
  have hd : (s.updateMaster m f).deferred = s.deferred := funext fun j => by
    rw [State.updateMaster_deferred, hf]
    split
    · next hj => exact hj ▸ rfl
    · rfl
  rw [State.ledger, hd]
  rfl

theorem State.leaveWaitSets_ledger (e : EntryIx) : (s.leaveWaitSets e).ledger = s.ledger := by
  have hd : (s.leaveWaitSets e).deferred = s.deferred := funext fun m => s.mapMasters_deferred _ m
  rw [State.ledger, hd]
  rfl

/-- The masters' errors changed, and nothing else of the ledger. -/
theorem State.ledger_of_deferred {t : State} (h : t.ledger = { s.ledger with deferred := t.deferred })
    (hd : ∀ m d, t.deferred m = some d → s.deferred m = some d ∨ d.further ≤ Config.byteCountMax) :
    LedgerMoves s.ledger t.ledger :=
  (LedgerMove.defers (l := s.ledger) t.deferred hd).moves h

theorem State.recordError_ledgerMoves (m : MasterIx) (k : DeferredKind) :
    LedgerMoves s.ledger (s.recordError m k).ledger := by
  refine s.ledger_of_deferred rfl fun j d hd => ?_
  rw [State.recordError, State.updateMaster_deferred] at hd
  split at hd
  · exact .inr (MasterCtx.record_further_le hd)
  · exact .inl hd

theorem State.recordErrors_ledgerMoves (set : MasterSet) (k : DeferredKind) :
    LedgerMoves s.ledger (s.recordErrors set k).ledger := by
  refine s.ledger_of_deferred rfl fun j d hd => ?_
  rw [State.recordErrors, State.mapMasters_deferred] at hd
  split at hd
  · exact .inr (MasterCtx.record_further_le hd)
  · exact .inl hd

theorem State.answerBarrier_ledgerMoves (m : MasterIx) (t : Tag) :
    LedgerMoves s.ledger (s.answerBarrier m t).ledger := by
  refine s.ledger_of_deferred rfl fun j d hd => ?_
  rw [State.answerBarrier, State.updateMaster_deferred] at hd
  split at hd
  · exact absurd hd nofun
  · exact .inl hd

end Masters

/-! ### Operations that leave the ledger alone -/

section Silent
variable (s : State)

theorem State.freeEntry_ledger (e : EntryIx) (L : Nat) : (s.freeEntry e L).ledger = s.ledger :=
  State.leaveWaitSets_ledger ((s.setEntry e Entry.free).leaveOpenOrder e) e

theorem State.discard_ledger (e : EntryIx) : (s.discard e).ledger = s.ledger := by
  unfold State.discard
  split
  · rfl
  · next L _ => exact s.freeEntry_ledger e L

theorem State.recommit_ledger (e : EntryIx) (k : DrainKind) : (s.recommit e k).ledger = s.ledger := by
  unfold State.recommit
  dsimp only
  split <;> rfl

theorem State.backToQuiescing_ledger : s.backToQuiescing.ledger = s.ledger := by
  unfold State.backToQuiescing
  split <;> rfl

theorem State.commitSuccessor_ledger (L : Nat) : (s.commitSuccessor L).ledger = s.ledger := by
  unfold State.commitSuccessor
  split
  · split <;> rfl
  · rfl

theorem State.drainSucceeds_ledger (e : EntryIx) : (s.drainSucceeds e).ledger = s.ledger := by
  unfold State.drainSucceeds
  dsimp only
  split
  · rfl
  · next L _ =>
    split
    · exact (State.commitSuccessor_ledger _ L).trans (s.freeEntry_ledger e L)
    · rfl

theorem State.attachFill_ledger (r : ReadIx) (L : Nat) : (s.attachFill r L).ledger = s.ledger := by
  unfold State.attachFill
  split
  · split <;> rfl
  · rfl

theorem State.placeRead_ledger (i : ReadIx) : (s.placeRead i).ledger = s.ledger := by
  unfold State.placeRead
  split <;> rfl

theorem State.placeBit_ledger (i : BitIx) : (s.placeBit i).ledger = s.ledger := by
  unfold State.placeBit
  split <;> rfl

theorem State.answerReaders_ledger (readers : List ReadIx) (f : ReadReq → RecordStatus × List Byte) :
    (s.answerReaders readers f).ledger = s.ledger := by
  unfold State.answerReaders
  dsimp only
  split <;> rfl

theorem State.startWork_ledger (w : Work) : (s.startWork w).ledger = s.ledger := by
  cases w with
  | drain d e =>
    simp only [State.startWork, State.startDrain]
    split
    · split <;> rfl
    · rfl
  | bitop i =>
    simp only [State.startWork, State.startBitOp]
    split <;> rfl
  | fill readers => rfl
  | scrub => rfl

theorem State.takeOp_ledger (k : LaneIx) (i : Nat) : (s.takeOp k i).ledger = s.ledger := by
  unfold State.takeOp
  split
  · rfl
  · next o _ => exact State.startWork_ledger { s with opList := s.opList.take i k } o.work

theorem PortCondition.tick_aborts (c : PortCondition) : c.tick.aborts = c.aborts := by
  cases c <;> rfl

theorem State.runTimers_ledger : s.runTimers.ledger = s.ledger :=
  congrArg (fun b => { s.ledger with aborting := b }) s.port.condition.tick_aborts

end Silent

/-! ### Operations that log, raise, record or set the port -/

section Reports
variable (s : State)

theorem State.raise_ledgerMoves (e : EventSource) : LedgerMoves s.ledger (s.raise e).ledger :=
  .single (LedgerMove.raises (l := s.ledger) e)

theorem State.logFault_ledgerMoves (r : FaultRecord) : LedgerMoves s.ledger (s.logFault r).ledger :=
  .single (LedgerMove.logs (l := s.ledger) r)

theorem State.logFault?_ledgerMoves (f : Option FaultRecord) : LedgerMoves s.ledger (s.logFault? f).ledger := by
  cases f with
  | none => exact .refl
  | some r => exact s.logFault_ledgerMoves r

theorem State.setPort_ledgerMoves (c : PortCondition) : LedgerMoves s.ledger (s.setPort c).ledger :=
  .single (LedgerMove.setsAbort (l := s.ledger) c.aborts)

theorem State.issue_ledgerMoves : LedgerMoves s.ledger s.issue.ledger := by
  unfold State.issue
  split
  · exact .refl
  · exact State.setPort_ledgerMoves _ _

theorem State.goOn_ledgerMoves (k : LaneIx) (L : Nat) (bytes : LineBytes) (f : Option FaultRecord) :
    LedgerMoves s.ledger (s.goOn k L bytes f).ledger := by
  unfold State.goOn
  split
  · exact .refl
  · exact s.logFault?_ledgerMoves f

theorem State.fold_ledgerMoves (e : EntryIx) (L : Nat) : LedgerMoves s.ledger (s.fold e L).ledger := by
  unfold State.fold
  split
  · exact .refl
  · dsimp only
    rw [State.freeEntry_ledger]
    exact State.recordErrors_ledgerMoves (s.setEntry e _) _ .lineHeld

/-- A failed drain records LINE-HELD, logs it and raises it; without a DRAINING entry it does nothing (R96-R98). -/
theorem State.drainFails_ledgerMoves (e : EntryIx) (r : HeldReason) (op : OpKind × BitVec 16) (w : Option WordIx) :
    LedgerMoves s.ledger (s.drainFails e r op w).ledger := by
  cases hl : s.buffer.entries[e].line with
  | none => rw [State.drainFails_of_not (.inl hl)]
  | some L =>
    by_cases hs : s.buffer.entries[e].state = .draining
    · rw [State.drainFails_draining hs hl]
      have hrecorded : LedgerMoves s.ledger _ := State.recordErrors_ledgerMoves
        ((s.setEntry e (s.buffer.entries[e].hold r)).wake (.entryChanged L)) s.buffer.entries[e].contributors .lineHeld
      have hfolded := hrecorded.trans (State.fold_ledgerMoves _ e L)
      have hleft := hfolded.trans (LedgerMoves.of_eq (State.leaveWaitSets_ledger _ e))
      exact (hleft.trans (State.logFault_ledgerMoves _ _)).trans (State.raise_ledgerMoves _ .lineHeld)
    · rw [State.drainFails_of_not (.inr hs)]

theorem State.completeDrain_ledgerMoves (k : LaneIx) (o : Operation) (e : EntryIx) (r : Option HeldReason)
    (w : Option WordIx) : LedgerMoves s.ledger (s.completeDrain k o e r w).ledger := by
  cases r with
  | none => exact .of_eq ((s.removeLaneOp k).drainSucceeds_ledger e)
  | some r => exact (s.removeLaneOp k).drainFails_ledgerMoves e r o.label w

theorem State.endFill_ledgerMoves (k : LaneIx) (readers : List ReadIx) (g : ReadReq → RecordStatus × List Byte)
    (f : Option FaultRecord) :
    LedgerMoves s.ledger ((((s.removeLaneOp k).answerReaders readers g).logFault? f).setLane k .idle).ledger :=
  (LedgerMoves.of_eq ((s.removeLaneOp k).answerReaders_ledger readers g)).trans (State.logFault?_ledgerMoves _ f)

theorem State.completeBitOp_ledgerMoves (k : LaneIx) (i : BitIx) (st : RecordStatus) (d : List Byte)
    (f : Option FaultRecord) : LedgerMoves s.ledger (s.completeBitOp k i st d f).ledger := by
  unfold State.completeBitOp
  refine (LedgerMoves.of_eq ?_).trans (State.logFault?_ledgerMoves _ f)
  split <;> rfl

theorem State.completeScrub_ledgerMoves (k : LaneIx) (f : Option FaultRecord) :
    LedgerMoves s.ledger (s.completeScrub k f).ledger :=
  (s.removeLaneOp k).logFault?_ledgerMoves f

theorem State.halt_ledgerMoves (c : HaltCause) : LedgerMoves s.ledger (s.halt c).ledger :=
  .trans (State.logFault_ledgerMoves { s with control := ⟨.halted, some c⟩ } _) (State.raise_ledgerMoves _ .halt)

theorem State.advanceScrub_ledgerMoves : LedgerMoves s.ledger s.advanceScrub.ledger := by
  unfold State.advanceScrub
  split
  · exact .refl
  · exact State.raise_ledgerMoves { s with scrub := _ } .scrubPass

/-- No error stays deferred when the masters' contexts are reset (R147, R161). -/
theorem State.dropErrors_ledgerMoves :
    LedgerMoves s.ledger { s with masters := Vector.replicate 8 MasterCtx.reset }.ledger :=
  s.ledger_of_deferred rfl fun m _ hd =>
    absurd ((congrArg MasterCtx.deferred (Vector.getElem_replicate m.isLt)).symm.trans hd) nofun

theorem State.busReset_ledgerMoves : LedgerMoves s.ledger s.busReset.ledger :=
  s.dropErrors_ledgerMoves.trans (State.raise_ledgerMoves { s with masters := _ } .busReset)

theorem State.clear_ledgerMoves : LedgerMoves s.ledger s.clear.ledger :=
  (s.dropErrors_ledgerMoves.tail (.counts 0 s.port.correctedCount (.inl (Nat.zero_le _)) (.inr rfl))).tail .restarts

theorem State.powerOn_ledgerMoves : LedgerMoves s.ledger s.powerOn.ledger := .single .resets

end Reports

/-! ### Every change -/

/-- Every change is a chain of moves of the ledger. -/
theorem Change.ledgerMoves {s t : State} (h : Change s t) : LedgerMoves s.ledger t.ledger := by
  cases h with
  | tagJoins m t | tagLeaves m t | takesBarrier m t _ _ => exact .of_eq (s.updateMaster_ledger m fun _ => rfl)
  | records m k => exact s.recordError_ledgerMoves m k
  | answersBarrier m t _ => exact s.answerBarrier_ledgerMoves m t
  | raises e => exact s.raise_ledgerMoves e
  | logs r => exact s.logFault_ledgerMoves r
  | clearsEvents set => exact .single (.clears (l := s.ledger) set)
  | takesEvent i hi => exact .single (.takes (l := s.ledger) i hi)
  | endsService => exact .single (.pops (l := s.ledger))
  | enables v hv => exact .single (.enables (l := s.ledger) v hv)
  | levels v hv => exact .single (.levels (l := s.ledger) v hv)
  | popsFault r rs hr =>
    have hle : rs.length ≤ s.faults.records.length := hr ▸ Nat.le_succ _
    exact .single (.drops (l := s.ledger) rs s.faults.overflow hle le_rfl)
  | clearsFaults => exact .single (.drops (l := s.ledger) [] 0 (Nat.zero_le _) (Nat.zero_le _))
  | discards e _ => exact .of_eq (s.discard_ledger e)
  | recommits e k _ _ => exact .of_eq ((State.backToQuiescing_ledger _).trans (s.recommit_ledger e k))
  | takesRead r q _ _ => exact .of_eq ((s.setRead r _).attachFill_ledger r q.line)
  | placesRead i _ => exact .of_eq (s.placeRead_ledger i)
  | placesBit i _ => exact .of_eq (s.placeBit_ledger i)
  | dispatches k i _ => exact .of_eq (s.takeOp_ledger k i)
  | issues _ => exact s.issue_ledgerMoves
  | setsPort c => exact s.setPort_ledgerMoves c
  | counts f n hf hn => exact .single (.counts (l := s.ledger) f n (.inl hf) hn)
  | corrects n hn => exact .single (.counts (l := s.ledger) s.port.failures n (.inr rfl) (.inl hn))
  | goesOn k o L bytes f _ => exact s.goOn_ledgerMoves k L bytes f
  | endsDrain k o d e r w _ _ => exact s.completeDrain_ledgerMoves k o e r w
  | endsFill k o readers g f _ _ => exact s.endFill_ledgerMoves k readers g f
  | endsBitOp k o i st d f _ _ => exact s.completeBitOp_ledgerMoves k i st d f
  | endsScrub k o f _ _ => exact s.completeScrub_ledgerMoves k f
  | starts _ => refine .of_eq ?_; split <;> rfl
  | halts c _ _ => exact s.halt_ledgerMoves c
  | completesQuiesce _ => exact State.raise_ledgerMoves (s.setBridge .quiesced) .quiesced
  | clears _ => exact s.clear_ledgerMoves
  | appendsScrub _ _ => exact State.advanceScrub_ledgerMoves (s.appendOp .scrub s.scrub.position)
  | ticks => exact .of_eq s.runTimers_ledger
  | resetsBus => exact s.busReset_ledgerMoves
  | powersOn => exact s.powerOn_ledgerMoves
  | setsMgmt g hg => exact .single (.frames (l := s.ledger) g.frameErrors hg)
  | _ => exact .refl

/-- A law of the ledger that every move keeps, every step keeps. -/
theorem step_keeps_ledger {P : Ledger → Prop} (hm : ∀ l l', LedgerMove l l' → P l → P l') {s t : State}
    (h : step s = .next t) (p : P s.ledger) : P t.ledger :=
  step_keeps (P := fun u => P u.ledger) (fun _ _ hc => hc.ledgerMoves.keeps hm) (fun _ _ hu => hu) h p

end Sys2Proof.Machine

/-! ## The event unit: eligible sources, NEXT-EVENT's choice, and ALERT (R166-R173) -/

namespace Sys2Proof.Machine

/-! ### Eligible sources (R170, R171) -/

/-- The source at bit `i` has a level above the current service level (R169). -/
def EventUnit.above (u : EventUnit) (i : Fin 12) : Prop :=
  u.stack.getLast? = none ∨ (u.stack.getLast? = some .routine ∧ u.urgent.getLsbD i = true)

/-- The source at bit `i` is pending, enabled and above the current service level (R170). -/
def EventUnit.isEligible (u : EventUnit) (i : Fin 12) : Prop :=
  u.pending.getLsbD i = true ∧ u.enable.getLsbD i = true ∧ u.above i

section Eligible
variable {u : EventUnit} {i : Fin 12}

theorem EventUnit.eligible_iff : u.eligible.getLsbD i = true ↔ u.isEligible i := by
  unfold EventUnit.eligible EventUnit.isEligible EventUnit.above EventUnit.currentLevel
  cases u.stack.getLast? with
  | none => simp
  | some v => cases v <;> simp [and_assoc]

theorem lowestSource_eq_lowestFin (set : SourceSet) : lowestSource set = lowestFin 12 fun i => set.getLsbD i := rfl

theorem lowestSource_eq_some_iff {set : SourceSet} :
    lowestSource set = some i ↔ set.getLsbD i = true ∧ ∀ j : Fin 12, set.getLsbD j = true → i ≤ j := by
  rw [lowestSource_eq_lowestFin, lowestFin_some]
  refine and_congr_right fun _ => forall_congr' fun j => ?_
  rw [← not_lt, ← Bool.not_eq_true]
  exact ⟨fun h hj hlt => h hlt hj, fun h hlt hj => h hj hlt⟩

theorem lowestSource_eq_none_iff {set : SourceSet} :
    lowestSource set = none ↔ ∀ i : Fin 12, set.getLsbD i = false := by
  rw [lowestSource_eq_lowestFin, lowestFin_none]

/-- No source is chosen exactly when none is eligible (R171). -/
theorem EventUnit.choose_eq_none_iff : u.choose = none ↔ ∀ i, ¬u.isEligible i := by
  simp only [← EventUnit.eligible_iff, Bool.not_eq_true, ← lowestSource_eq_none_iff]
  unfold EventUnit.choose
  split
  · next i hi =>
    have helig : u.eligible.getLsbD i = true := by
      have hboth := (lowestSource_eq_some_iff.mp hi).1
      simp only [BitVec.getLsbD_and, Bool.and_eq_true] at hboth
      exact hboth.1
    refine iff_of_false nofun fun hnone => ?_
    rw [lowestSource_eq_none_iff.mp hnone i] at helig
    exact absurd helig Bool.false_ne_true
  · rfl

/-- The source chosen is eligible, is URGENT if an eligible one is, and is the lowest-numbered of its level (R171). -/
theorem EventUnit.choose_eq_some_iff : u.choose = some i ↔ u.isEligible i ∧ ∀ j, u.isEligible j →
    (u.urgent.getLsbD j = true → u.urgent.getLsbD i = true) ∧ (u.urgent.getLsbD j = u.urgent.getLsbD i → i ≤ j) := by
  simp only [← EventUnit.eligible_iff]
  unfold EventUnit.choose
  split
  · next k hk =>
    obtain ⟨hmem, hleast⟩ := lowestSource_eq_some_iff.mp hk
    simp only [BitVec.getLsbD_and, Bool.and_eq_true] at hmem hleast
    obtain ⟨helig, hurgent⟩ := hmem
    constructor
    · rintro ⟨⟩
      exact ⟨helig, fun j hj => ⟨fun _ => hurgent, fun heq => hleast j ⟨hj, heq.trans hurgent⟩⟩⟩
    · rintro ⟨hi, hfirst⟩
      have hiurgent := (hfirst k helig).1 hurgent
      have hle := (hfirst k helig).2 (hurgent.trans hiurgent.symm)
      exact congrArg some (le_antisymm (hleast i ⟨hi, hiurgent⟩) hle)
  · next hnone =>
    have hroutine (j : Fin 12) (hj : u.eligible.getLsbD j = true) : u.urgent.getLsbD j = false := by
      simpa [hj] using lowestSource_eq_none_iff.mp hnone j
    rw [lowestSource_eq_some_iff]
    refine and_congr_right fun hi => forall₂_congr fun j hj => ?_
    rw [hroutine i hi, hroutine j hj]
    simp

/-- ALERT is asserted exactly while a source is eligible (R170). -/
theorem EventUnit.alertNow_iff : u.alertNow = true ↔ ∃ i, u.isEligible i := by
  simp only [← EventUnit.eligible_iff, EventUnit.alertNow, bne_iff_ne]
  constructor
  · intro hne
    by_contra hnone
    refine hne (BitVec.eq_of_getLsbD_eq fun i hi => ?_)
    have hi' := not_exists.mp hnone ⟨i, hi⟩
    simpa using hi'
  · rintro ⟨i, hi⟩ hzero
    simp [hzero] at hi

end Eligible

/-! ### Every step keeps the laws of ALERT, of the service stack and of source 1 (R167, R169, R170) -/

/-- R169, R170, and the fixed settings of source 1 (R166, R167). -/
def EventUnit.law (u : EventUnit) : Prop := u.alertLaw ∧ u.stackLaw ∧ u.haltSourceLaw

section Law
variable {u : EventUnit}

/-- ALERT recomputed keeps its law, whatever changed: `alertNow` does not look at the line itself. -/
theorem EventUnit.law_recompute (hs : u.stackLaw) (hh : u.haltSourceLaw) : u.recompute.law := ⟨rfl, hs, hh⟩

theorem EventUnit.law.raise (h : u.law) (e : EventSource) : (u.raise e).law := by
  obtain ⟨-, hstack, hhalt⟩ := h
  exact EventUnit.law_recompute hstack hhalt

/-- A level is pushed on a stack below it: on the empty stack any, on [ROUTINE] an URGENT one, on others none (R169). -/
theorem EventUnit.stackLaw.push (h : u.stackLaw) {i : Fin 12} (hi : u.above i) :
    { u with stack := u.stack ++ [u.levelOf i] }.stackLaw := by
  unfold EventUnit.above at hi
  unfold EventUnit.stackLaw
  obtain hs | hs | hs | hs := h
  · cases hl : u.levelOf i <;> simp [hs]
  · have hurgent : u.urgent.getLsbD i = true := by simpa [hs] using hi
    have hlevel : u.levelOf i = .urgent := if_pos hurgent
    simp [hs, hlevel]
  · simp [hs] at hi
  · simp [hs] at hi

theorem EventUnit.law.take (h : u.law) {i : Fin 12} (hi : u.choose = some i) : (u.take i).law := by
  obtain ⟨-, hstack, hhalt⟩ := h
  obtain ⟨⟨-, -, habove⟩, -⟩ := EventUnit.choose_eq_some_iff.mp hi
  exact EventUnit.law_recompute (hstack.push habove) hhalt

/-- Without its top a stack is empty or [ROUTINE] (R172). -/
theorem EventUnit.law.pop (h : u.law) : u.pop.law := by
  obtain ⟨-, hstack, hhalt⟩ := h
  refine EventUnit.law_recompute ?_ hhalt
  obtain hs | hs | hs | hs := hstack <;> simp [EventUnit.stackLaw, hs]

theorem EventUnit.law.restart (h : u.law) : u.restart.law := by
  obtain ⟨-, -, hhalt⟩ := h
  refine ⟨?_, .inl rfl, hhalt⟩
  simp [EventUnit.alertLaw, EventUnit.restart, EventUnit.alertNow, EventUnit.eligible, EventUnit.currentLevel]

end Law

/-- Every move keeps the event unit's law. -/
theorem LedgerMove.eventLaw {l l' : Ledger} (hm : LedgerMove l l') (h : l.events.law) : l'.events.law := by
  obtain ⟨-, hstack, henable, hurgent⟩ := id h
  cases hm with
  | logs r =>
    change EventUnit.law (if _ then _ else _)
    split
    · exact h.raise .faultOverflow
    · exact h
  | raises e => exact h.raise e
  | clears set => exact EventUnit.law_recompute hstack ⟨henable, hurgent⟩
  | takes i hi => exact h.take hi
  | pops => exact h.pop
  | enables v hv => exact EventUnit.law_recompute hstack ⟨hv, hurgent⟩
  | levels v hv => exact EventUnit.law_recompute hstack ⟨henable, hv⟩
  | restarts => exact h.restart
  | resets => exact ⟨rfl, .inl rfl, rfl, rfl⟩
  | drops _ _ _ _ | defers _ _ | counts _ _ _ _ | setsAbort _ | frames _ _ => exact h

/-- Settles O13: each move of the event unit recomputes ALERT, pushes a level above the top of the stack or removes the
top, and leaves source 1 enabled and URGENT. -/
theorem alertFollowsTheEventUnit : Obligations.AlertFollowsTheEventUnit :=
  fun _ _ h hs => step_keeps_ledger (P := fun l => l.events.law) (fun _ _ hm hl => hm.eventLaw hl) hs h

/-! ### NEXT-EVENT and END-SERVICE (R171, R172) -/

theorem exec_nextEvent_some {s : State} {i : Fin 12} (h : s.events.choose = some i) :
    exec (.nextEvent []) s =
      .next (State.reply { s with events := s.events.take i } .ok [BitVec.ofNat 8 (i.val + 1)]) := by
  change Host.Outcome.next (s.mgmtNextEvent []).replied = _
  rw [State.mgmtNextEvent, State.noPayload_nil, h]
  rfl

theorem exec_nextEvent_none {s : State} (h : s.events.choose = none) :
    exec (.nextEvent []) s = .next (s.reply .ok [0]) := by
  change Host.Outcome.next (s.mgmtNextEvent []).replied = _
  rw [State.mgmtNextEvent, State.noPayload_nil, h]
  rfl

theorem exec_endService_empty {s : State} (h : s.events.stack = []) :
    exec (.endService []) s = .next (s.reply .empty []) := by
  change Host.Outcome.next (s.mgmtEndService []).replied = _
  rw [State.mgmtEndService, State.noPayload_nil, h]
  rfl

theorem exec_endService_pops {s : State} {l : Level} {rest : List Level} (h : s.events.stack = rest ++ [l]) :
    exec (.endService []) s =
      .next (State.reply { s with events := EventUnit.recompute { s.events with stack := rest } } .ok []) := by
  have hne : s.events.stack.isEmpty = false := by simp [h]
  have hpop : s.events.pop = EventUnit.recompute { s.events with stack := rest } := by
    rw [EventUnit.pop, h, List.dropLast_concat]
  change Host.Outcome.next (s.mgmtEndService []).replied = _
  rw [State.mgmtEndService, State.noPayload_nil, hne, hpop]
  rfl

/-- Settles O56: NEXT-EVENT by the choice it makes, END-SERVICE by the stack, and ALERT by the sources eligible. -/
theorem eventsAreTakenInOrder : Obligations.EventsAreTakenInOrder := by
  intro s above eligible
  refine ⟨fun i hi hfirst => exec_nextEvent_some (EventUnit.choose_eq_some_iff.mpr ⟨hi, hfirst⟩),
    fun hnone => exec_nextEvent_none (EventUnit.choose_eq_none_iff.mpr hnone), exec_endService_empty,
    fun l rest hstack => exec_endService_pops hstack, fun hsome => ?_, fun hnone => ?_⟩
  · rw [EventUnit.recompute, EventUnit.alertNow_iff.mpr hsome]
  · have hquiet : s.events.alertNow = false :=
      Bool.eq_false_iff.mpr fun halert => not_exists.mpr hnone (EventUnit.alertNow_iff.mp halert)
    rw [EventUnit.recompute, hquiet]

end Sys2Proof.Machine

/-! ## Every step keeps the counts within their maxima (R89, R108, R113, R120, R163, R177) -/

namespace Sys2Proof.Machine

/-- R89, R113, R120, R163, R177, and the abort line of R108. -/
def Ledger.countLaw (l : Ledger) : Prop :=
  l.faults.sizeLaw ∧
    (l.failures ≤ Config.failuresMax ∧ l.corrected ≤ Config.correctedMax ∧ l.frameErrors ≤ Config.byteCountMax ∧
      ∀ m d, l.deferred m = some d → d.further ≤ Config.byteCountMax) ∧
    l.abortLine = l.aborting

theorem State.countLaw_iff {s : State} :
    s.faults.sizeLaw ∧ s.countLaw ∧ s.port.abortLaw ↔ s.ledger.countLaw := Iff.rfl

/-- A record is kept while there are fewer than 8, and counted up to 255 when there are 8 (R163). -/
theorem FaultQueue.sizeLaw.offer {q : FaultQueue} (h : q.sizeLaw) (r : FaultRecord) : (q.offer r).sizeLaw := by
  obtain ⟨hrecords, hoverflow⟩ := h
  unfold FaultQueue.offer
  split
  · exact ⟨hrecords, Nat.min_le_left _ _⟩
  · next hfull =>
    have hroom : q.records.length < Config.faultDepth := by simpa [FaultQueue.full] using hfull
    refine ⟨?_, hoverflow⟩
    rw [List.length_append]
    exact hroom

/-- Every move keeps the counts within their maxima, and the abort line with ABORTING. -/
theorem LedgerMove.countLaw {l l' : Ledger} (hm : LedgerMove l l') (h : l.countLaw) : l'.countLaw := by
  obtain ⟨hfaults, ⟨hfailures, hcorrected, hframes, hdeferred⟩, habort⟩ := id h
  obtain ⟨hrecords, hoverflow⟩ := id hfaults
  cases hm with
  | logs r => exact ⟨hfaults.offer r, ⟨hfailures, hcorrected, hframes, hdeferred⟩, habort⟩
  | drops rs n hrs hn =>
    exact ⟨⟨hrs.trans hrecords, hn.trans hoverflow⟩, ⟨hfailures, hcorrected, hframes, hdeferred⟩, habort⟩
  | defers f hf =>
    exact ⟨hfaults, ⟨hfailures, hcorrected, hframes, fun m d hd => (hf m d hd).elim (hdeferred m d) id⟩, habort⟩
  | counts f n hf hn =>
    exact ⟨hfaults, ⟨hf.elim id (·.trans_le hfailures), hn.elim id (·.trans_le hcorrected), hframes, hdeferred⟩, habort⟩
  | setsAbort b => exact ⟨hfaults, ⟨hfailures, hcorrected, hframes, hdeferred⟩, rfl⟩
  | frames n hn => exact ⟨hfaults, ⟨hfailures, hcorrected, hn.elim id (·.trans_le hframes), hdeferred⟩, habort⟩
  | resets =>
    obtain ⟨-, hcount⟩ := State.reset_masterLaws
    exact State.countLaw_iff.mp ⟨⟨Nat.zero_le _, Nat.zero_le _⟩, hcount, rfl⟩
  | raises _ | clears _ | takes _ _ | pops | enables _ _ | levels _ _ | restarts => exact h

/-- Settles O14: each move of a count stays within its maximum, and the abort line is set with the port's condition. -/
theorem countsStayWithinTheirMaxima : Obligations.CountsStayWithinTheirMaxima :=
  fun _ _ h hs => step_keeps_ledger (fun _ _ hm hl => hm.countLaw hl) hs (State.countLaw_iff.mp h)

end Sys2Proof.Machine

/-! ## The fault queue: logging, FAULT-PEEK, FAULT-POP, FAULT-CLEAR, and the bytes of a record (R162-R165, R184) -/

namespace Sys2Proof.Machine

/-! ### Logging (R162, R163) -/

theorem FaultQueue.full_iff {q : FaultQueue} : q.full = true ↔ 8 ≤ q.records.length := decide_eq_true_iff

theorem State.logFault_of_room {s : State} {f : FaultRecord} (h : s.faults.records.length < 8) :
    s.logFault f = { s with faults := ⟨s.faults.records ++ [{ f with sequence := s.faults.sequence }],
      s.faults.overflow, s.faults.sequence + 1⟩ } := by
  have hroom : s.faults.full = false := Bool.eq_false_iff.mpr fun hf => absurd (FaultQueue.full_iff.mp hf) (by omega)
  simp only [State.logFault, FaultQueue.offer, hroom, Bool.false_eq_true, if_false]

theorem State.logFault_of_full {s : State} {f : FaultRecord} (h : 8 ≤ s.faults.records.length) :
    s.logFault f = { s with
      faults := ⟨s.faults.records, min 255 (s.faults.overflow + 1), s.faults.sequence + 1⟩
      events := s.events.raise .faultOverflow } := by
  have hfull : s.faults.full = true := FaultQueue.full_iff.mpr h
  simp only [State.logFault, FaultQueue.offer, hfull, if_true, saturate, Config.byteCountMax]

/-! ### The commands (R164, R165) -/

section Commands
variable {s : State} {r : FaultRecord} {rs : List FaultRecord}

theorem exec_faultPeek_empty (h : s.faults.records = []) : exec (.faultPeek []) s = .next (s.reply .empty []) := by
  change Host.Outcome.next (s.mgmtFaultPeek []).replied = _
  rw [State.mgmtFaultPeek, State.noPayload_nil, h]
  rfl

theorem exec_faultPop_empty (h : s.faults.records = []) : exec (.faultPop []) s = .next (s.reply .empty []) := by
  change Host.Outcome.next (s.mgmtFaultPop []).replied = _
  rw [State.mgmtFaultPop, State.noPayload_nil, h]
  rfl

theorem exec_faultPeek_oldest (h : s.faults.records = r :: rs) :
    exec (.faultPeek []) s = .next (s.reply .ok r.layout) := by
  change Host.Outcome.next (s.mgmtFaultPeek []).replied = _
  rw [State.mgmtFaultPeek, State.noPayload_nil, h]
  rfl

theorem exec_faultPop_oldest (h : s.faults.records = r :: rs) : exec (.faultPop []) s =
    .next (State.reply { s with faults := { s.faults with records := rs } } .ok r.layout) := by
  change Host.Outcome.next (s.mgmtFaultPop []).replied = _
  rw [State.mgmtFaultPop, State.noPayload_nil, h]
  rfl

end Commands

/-! ### The bytes of a record (R184) -/

/-- Byte `k` of a value sent least significant byte first is its digit at 256 to the `k`. -/
theorem leBytes_eq_map (n v : Nat) : leBytes n v = (List.range n).map fun k => BitVec.ofNat 8 (v / 256 ^ k) := by
  induction n generalizing v with
  | zero => rfl
  | succ n ih =>
    rw [leBytes, ih, List.range_succ_eq_map, List.map_cons, List.map_map, Nat.pow_zero, Nat.div_one]
    refine congrArg _ (List.map_congr_left fun k _ => ?_)
    rw [Function.comp_apply, Nat.pow_succ', Nat.div_div_eq_div_mul]

theorem orZero_eq_getD {α : Type} (f : α → Nat) (o : Option α) : orZero f o = (o.map f).getD 0 := by
  cases o <;> rfl

/-- Settles O55: logging with room and without, the commands by the oldest record, and the bytes field by field. -/
theorem faultsAreKeptReadAndCleared : Obligations.FaultsAreKeptReadAndCleared := by
  intro s f le cause bridge request command operation detail bit bytes
  have hle (n v : Nat) : le n v = leBytes n v := (leBytes_eq_map n v).symm
  have hcause (c : DenialCause) : cause c = c.code := by cases c <;> rfl
  have hbridge (b : BridgeState) : bridge b = b.code := by cases b <;> rfl
  have hrequest (k : ReqKind) : request k = k.code := by
    cases k with
    | bits b => cases b <;> rfl
    | _ => rfl
  have hcommand (c : CmdKind) : command c = c.code := by cases c <;> rfl
  have hoperation (k : OpKind) : operation k = k.code := by
    cases k with
    | drain d => cases d <;> rfl
    | _ => rfl
  have hdetail (k : FaultKind) : detail k = (k.code, k.detail) := by
    cases k with
    | writeDenied c n => exact congrArg (fun x => (1, x, n.val, 0)) (hcause c)
    | writeNotRunning b => exact congrArg (fun x => (4, x, 0, 0)) (hbridge b)
    | tagClash q => exact congrArg (fun x => (5, x, 0, 0)) (hrequest q)
    | mergeUncorrectable d => cases d <;> rfl
    | bitopUncorrectable d => cases d <;> rfl
    | memTimeout c n => exact congrArg (fun x => (11, x, n, 0)) (hcommand c)
    | memFault c n => exact congrArg (fun x => (12, x, n, 0)) (hcommand c)
    | lineHeld r e => cases r <;> rfl
    | halt c b n => cases c <;> exact congrArg (fun x => (14, _, x, n)) (hbridge b)
    | _ => rfl
  have hbit (n : Nat) (b : Bool) : bit n b = 2 ^ n * bitNat b := by cases b <;> simp [bit, bitNat]
  have hbytes (r : FaultRecord) : bytes r = r.layout := by
    simp only [bytes, hle, hbit, hdetail, FaultRecord.layout, FaultRecord.presence, orZero_eq_getD, Option.map_id_fun,
      id, pow_zero, pow_one, one_mul]
    cases r.operation with
    | none => rfl
    | some o =>
      dsimp only
      rw [hoperation]
      rfl
  refine ⟨State.logFault_of_room, State.logFault_of_full, fun h => ⟨exec_faultPeek_empty h, exec_faultPop_empty h⟩,
    fun r rs h => ?_, rfl⟩
  rw [hbytes]
  exact ⟨exec_faultPeek_oldest h, exec_faultPop_oldest h⟩

end Sys2Proof.Machine

/-! ## The queue of waiting commands (log entry 18) -/

namespace Sys2Proof.Machine

theorem State.pending_of_frame {s t : State} (h : t.frame = s.frame) : t.pending = s.pending :=
  congrArg Settings.pending (State.settings_of_frame h)

theorem State.backToQuiescing_pending (s : State) : s.backToQuiescing.pending = s.pending := by
  unfold State.backToQuiescing
  split <;> rfl

theorem State.advanceScrub_pending (s : State) : s.advanceScrub.pending = s.pending := by
  unfold State.advanceScrub
  split <;> rfl

/-- No change touches the waiting commands: an operation that branches leaves its frame alone, and the others write other
fields. -/
theorem Change.pending_eq {s t : State} (hc : Change s t) : t.pending = s.pending := by
  cases hc with
  | starts _ => split <;> rfl
  | appendsScrub _ _ => exact (s.appendOp .scrub s.scrub.position).advanceScrub_pending
  | recommits e k _ _ =>
    exact (State.backToQuiescing_pending _).trans (State.pending_of_frame (s.recommit_frame e k))
  | discards e _ => exact State.pending_of_frame (s.discard_frame e)
  | takesRead r q _ _ => exact State.pending_of_frame ((s.setRead r _).attachFill_frame r q.line)
  | placesRead i _ => exact State.pending_of_frame (s.placeRead_frame i)
  | placesBit i _ => exact State.pending_of_frame (s.placeBit_frame i)
  | dispatches k i _ => exact State.pending_of_frame (s.takeOp_frame k i)
  | issues _ => exact State.pending_of_frame s.issue_frame
  | goesOn k o L bytes f _ => exact State.pending_of_frame (s.goOn_frame k L bytes f)
  | endsDrain k o d e r w _ _ => exact State.pending_of_frame (s.completeDrain_frame k o e r w)
  | endsFill k o readers g f _ _ => exact State.pending_of_frame (s.endFill_frame k readers g f)
  | endsBitOp k o i st d f _ _ => exact State.pending_of_frame (s.completeBitOp_frame k i st d f)
  | endsScrub k o f _ _ => exact State.pending_of_frame (s.completeScrub_frame k f)
  | _ => rfl

/-- Settles O3: every next state is reached by a chain of changes, and each keeps the queue. -/
theorem commandsKeepTheQueue : Obligations.CommandsKeepTheQueue := fun _ s _ h =>
  (exec_changes h).keeps (P := fun u => u.pending = s.pending) (fun _ _ hc hu => hc.pending_eq.trans hu) rfl

/-- Settles O1: the step's own match on the queue. -/
theorem stepRunsTheFrontCommand : Obligations.StepRunsTheFrontCommand := fun s c rest h => by
  rw [step, h]

end Sys2Proof.Machine

/-! ## Replies and frames that are not executed (R174-R176, R178, R179) -/

namespace Sys2Proof.Machine

theorem fillers_bounds (n : Nat) : 1 ≤ Config.fillers n ∧ Config.fillers n ≤ 4 := by
  have := (Config.fillerChoice n).isLt
  unfold Config.fillers
  omega

/-- Settles O60: the reply's frame is written out status by status, and its fillers are a value of two bits and 1. -/
theorem repliesFrameTheirPayload : Obligations.RepliesFrameTheirPayload := by
  intro s st d _
  obtain ⟨hmin, hmax⟩ := fillers_bounds s.mgmt.exchanges
  refine ⟨Config.fillers s.mgmt.exchanges, hmin, hmax, ?_⟩
  cases st <;> rfl

/-- The row `c` is the frame with payload `p` of a command that does `f` (log entry 6). -/
def IsFrame (c : Instr) (p : List Byte) (f : State → MgmtResult) : Prop :=
  ∀ s, exec c s = .next (s.execute p f)

section Frame
variable {c : Instr} {p : List Byte} {f : State → MgmtResult} {s : State}

theorem IsFrame.exec_tooLong (h : IsFrame c p f) (hp : 40 < p.length) : exec c s = .next (s.reply .badCheck []) := by
  rw [h s, State.execute_of_lt hp]

/-- A command that is refused, once its payload's length is acceptable (R179). -/
theorem IsFrame.exec_refused {st : MgmtStatus} (h : IsFrame c p f) (hp : p.length ≤ 40) (hf : f s = s.refused st) :
    exec c s = .next (s.reply st []) := by
  rw [h s, State.execute_of_le hp, hf, MgmtResult.replied_refused]

end Frame

/-- Every management row but the releases and the frames that are not executed stands for a frame. -/
theorem exists_isFrame {c : Instr} {p : List Byte} {i : Byte} {n : RegionIx}
    (hc : c ∈ [Instr.getItem i p, .setItem i p, .setMemorySize p, .setRegion n p, .setCloseAhead p,
        .setScrubPosition p, .setCorrectedCount p, .setFrameErrors p, .setEventEnable p, .setEventLevel p, .setEventPending p,
        .start p, .quiesce p, .configure p, .halt p, .restart p, .flush p, .readEntry i p, .readMaster i p, .faultPeek p,
        .faultPop p, .faultClear p, .nextEvent p, .endService p, .scrubStart p, .scrubStop p]) : ∃ f, IsFrame c p f := by
  revert hc
  revert c
  simp only [List.forall_mem_cons]
  refine ⟨?_, ?_, ?_, ?_, ?_, ?_, ?_, ?_, ?_, ?_, ?_, ?_, ?_, ?_, ?_, ?_, ?_, ?_, ?_, ?_, ?_, ?_, ?_, ?_, ?_, ?_, nofun⟩
  all_goals exact ⟨_, fun _ => rfl⟩

/-- A command without arguments to its payload refuses every payload (R179). -/
theorem IsFrame.exec_badValue {c : Instr} {p : List Byte} {g : State → State → MgmtResult} {s : State}
    (h : IsFrame c p fun s => s.noPayload p (g s)) (hne : p ≠ []) (hp : p.length ≤ 40) :
    exec c s = .next (s.reply .badValue []) :=
  h.exec_refused hp (State.noPayload_of_ne hne)

/-- A state command given a payload: BAD-VALUE where the bridge accepts it, and BAD-STATE elsewhere (R179). -/
theorem IsFrame.exec_acceptedIn {c : Instr} {p : List Byte} {ok : State → Bool} {g : State → State → MgmtResult}
    {s : State} {accepted : Prop} (h : IsFrame c p fun s => s.acceptedIn (ok s) p (g s)) (hne : p ≠ [])
    (hp : p.length ≤ 40) (hok : ok s = true ↔ accepted) :
    (accepted → exec c s = .next (s.reply .badValue [])) ∧ (¬accepted → exec c s = .next (s.reply .badState [])) := by
  refine ⟨fun ha => h.exec_refused hp ?_, fun ha => h.exec_refused hp ?_⟩
  · rw [hok.mpr ha, State.acceptedIn_true, State.noPayload_of_ne hne]
  · rw [Bool.eq_false_iff.mpr (mt hok.mp ha), State.acceptedIn_false]

/-- CONFIGURE's check of the state: QUIESCED, with no entry HELD (R157, log entry 13). -/
theorem State.configureAccepts_iff {s : State} : (s.control.bridge == .quiesced && s.buffer.count .held == 0) = true ↔
    s.control.bridge = .quiesced ∧ ¬∃ e : EntryIx, s.buffer.entries[e].state = .held := by
  simp only [Bool.and_eq_true, beq_iff_eq, CombineBuffer.count_eq_zero_iff, not_exists, ne_eq]

theorem State.notRestarting_iff {s : State} : s.notRestarting = true ↔ s.control.bridge ≠ .restarting := by
  simp [State.notRestarting]

/-- Settles O57: a payload above 40 bytes by the frame's length, and a shorter one by the check of payloads, which follows
that of the state. -/
theorem badFramesAreAnswered : Obligations.BadFramesAreAnswered := by
  intro s p i n
  refine ⟨rfl, rfl, fun hp c hc => ?_, fun hne hp => ⟨?_, ?_⟩⟩
  · obtain ⟨f, hf⟩ := exists_isFrame hc
    exact hf.exec_tooLong hp
  · simp only [List.forall_mem_cons]
    refine ⟨?_, ?_, ?_, ?_, ?_, ?_, ?_, nofun⟩
    all_goals exact IsFrame.exec_badValue (fun _ => rfl) hne hp
  · intro held c accepted b hc
    rcases hc with ⟨rfl, ha⟩ | ⟨rfl, ha⟩ | ⟨rfl, ha⟩ | ⟨rfl, ha⟩ | ⟨rfl | rfl, ha⟩ | ⟨rfl | rfl, ha⟩
    · exact IsFrame.exec_acceptedIn (fun _ => rfl) hne hp (by simp [ha, b])
    · exact IsFrame.exec_acceptedIn (fun _ => rfl) hne hp (by simp [ha, b, or_assoc])
    · exact IsFrame.exec_acceptedIn (fun _ => rfl) hne hp (State.configureAccepts_iff.trans ha.symm)
    · exact IsFrame.exec_acceptedIn (fun _ => rfl) hne hp (by simp [ha, b, State.notRestarting_iff])
    · exact IsFrame.exec_acceptedIn (fun _ => rfl) hne hp (State.notRestarting_iff.trans ha.symm)
    · exact IsFrame.exec_acceptedIn (fun _ => rfl) hne hp (State.notRestarting_iff.trans ha.symm)
    · exact IsFrame.exec_acceptedIn (fun _ => rfl) hne hp (beq_iff_eq.trans ha.symm)
    · exact IsFrame.exec_acceptedIn (fun _ => rfl) hne hp (beq_iff_eq.trans ha.symm)

end Sys2Proof.Machine

/-! ## The frames of MCK_EDGE (R174-R176, R178, R179, R183, R184) -/

namespace Sys2Proof.Machine

/-! ### Edges in a row -/

/-- Rising edges one after another, as MCK_EDGE takes them. -/
theorem foldl_exec_rising (l : List Bool) (s : State) :
    l.foldl (fun (o : Host.Outcome State Fault Refusal) bit => match o with
      | .next t => exec (.mckEdge (.rising bit)) t
      | x => x) (.next s) = .next (l.foldl (fun t bit => t.clock (.rising bit)) s) := by
  induction l generalizing s with
  | nil => rfl
  | cons b l ih => exact ih (s.clock (.rising b))

/-- Edges one after another, as MCK_EDGE takes them. -/
theorem foldl_exec_edges (l : List Edge) (s : State) :
    l.foldl (fun (o : Host.Outcome State Fault Refusal) e => match o with
      | .next t => exec (.mckEdge e) t
      | x => x) (.next s) = .next (l.foldl State.clock s) := by
  induction l generalizing s with
  | nil => rfl
  | cons e l ih => exact ih (s.clock e)

/-! ### A command frame coming in (R174-R176) -/

/-- The bits of bytes, each most significant first (R174). -/
def bitsOf (bytes : List Byte) : List Bool := bytes.flatMap fun b => (List.range 8).map fun k => b.getLsbD (7 - k)

/-- The rising edges of the bits of bytes. -/
def State.clockIn (s : State) (bytes : List Byte) : State :=
  (bitsOf bytes).foldl (fun t bit => t.clock (.rising bit)) s

/-- An engine that waits for the first bit of a command frame (R174). -/
def MgmtPort.Waits (g : MgmtPort) : Prop := g.msel = true ∧ g.condition = .command ∧ g.bytes = [] ∧ g.bits = []

section Incoming
variable {s : State} {l : List Byte} {b : Byte}

/-- A frame that is complete at its last byte: what the engine holds at that byte's last bit is judged. -/
theorem State.clockIn_complete (hs : s.mgmt.Waits) (h : ∀ n, n ≤ l.length → frameVerdict (l.take n) = .incomplete) :
    s.clockIn (l ++ [b]) = State.frameByte { s with mgmt := { s.mgmt with
      bytes := l, bits := (List.range 7).map fun k => b.getLsbD (7 - k) } } (l ++ [b]) := by
  obtain ⟨hm, hc, hbytes, hbits⟩ := hs
  have hl := State.clock_bytes l hm hc hbits (by simpa [hbytes] using h)
  rw [hbytes, List.nil_append] at hl
  rw [State.clockIn, bitsOf, List.flatMap_append, List.foldl_append, hl, List.flatMap_cons, List.flatMap_nil,
    List.append_nil]
  exact State.clock_byte (s := { s with mgmt := { s.mgmt with bytes := l } }) hm hc hbits b

theorem State.clockIn_badCheck (hs : s.mgmt.Waits) (h : ∀ n, n ≤ l.length → frameVerdict (l.take n) = .incomplete)
    (hv : frameVerdict (l ++ [b]) = .badCheck) : s.clockIn (l ++ [b]) = s.reply .badCheck [] := by
  rw [State.clockIn_complete hs h, State.frameByte, hv]
  rfl

theorem State.clockIn_badCommand (hs : s.mgmt.Waits) (h : ∀ n, n ≤ l.length → frameVerdict (l.take n) = .incomplete)
    (hv : frameVerdict (l ++ [b]) = .badCommand) : s.clockIn (l ++ [b]) = s.reply .badCommand [] := by
  rw [State.clockIn_complete hs h, State.frameByte, hv]
  rfl

/-- A complete command acts on the state before the frame, since none of its bytes is left. -/
theorem State.clockIn_command {f : State → MgmtResult} (hs : s.mgmt.Waits)
    (h : ∀ n, n ≤ l.length → frameVerdict (l.take n) = .incomplete) (hv : frameVerdict (l ++ [b]) = .command f) :
    s.clockIn (l ++ [b]) = (f s).replied := by
  rw [State.clockIn_complete hs h, State.frameByte_command hv]
  obtain ⟨-, -, hbytes, hbits⟩ := hs
  have htaken : s.frameTaken = s := by
    unfold State.frameTaken
    rw [← hbytes, ← hbits]
  exact congrArg (fun t => (f t).replied) htaken

end Incoming

/-! ### The verdict on a frame (R175, R176, R179) -/

/-- The bytes of a command frame before its CRC-8 byte (R175). -/
def frameBody (code arg : Byte) (p : List Byte) : List Byte := code :: arg :: BitVec.ofNat 8 p.length :: p

section Verdict
variable {code arg len crc : Byte} {p : List Byte}

theorem toNat_length (hp : p.length ≤ 40) : (BitVec.ofNat 8 p.length).toNat = p.length := by
  rw [BitVec.toNat_ofNat]
  omega

/-- Fewer than three bytes are no frame yet. -/
theorem frameVerdict_short {l : List Byte} (h : l.length < 3) : frameVerdict l = .incomplete := by
  match l, h with
  | [], _ => rfl
  | [_], _ => rfl
  | [_, _], _ => rfl

/-- A frame is not complete before its CRC-8 byte (R175). -/
theorem frameVerdict_take (hp : p.length ≤ 40) (n : Nat) :
    frameVerdict ((frameBody code arg p).take n) = .incomplete := by
  match n with
  | 0 | 1 | 2 => exact frameVerdict_short (by simp [frameBody])
  | k + 3 =>
    have hshort : (p.take k).length < p.length + 1 := by rw [List.length_take]; omega
    simp only [frameBody, List.take_succ_cons, frameVerdict, toNat_length hp, Config.maxPayload, Nat.not_lt.mpr hp,
      if_false, if_pos hshort]

/-- A frame with its CRC-8 byte is judged by that byte, and then by its code (R176, R179). -/
theorem frameVerdict_crc (hp : p.length ≤ 40) : frameVerdict (frameBody code arg p ++ [crc]) =
    if crc != crc8 (frameBody code arg p) then .badCheck
    else match mgmtCommand code.toNat arg.toNat p with
      | none => .badCommand
      | some f => .command f := by
  have hfull : ¬(p ++ [crc]).length < p.length + 1 := by simp
  have hcrc : (p ++ [crc]).getD p.length 0 = crc := by simp
  simp only [frameBody, List.cons_append, frameVerdict, toNat_length hp, Config.maxPayload, Nat.not_lt.mpr hp,
    if_false, hfull, hcrc, List.take_left]
  rfl

theorem frameVerdict_badCrc (hp : p.length ≤ 40) (h : crc ≠ crc8 (frameBody code arg p)) :
    frameVerdict (frameBody code arg p ++ [crc]) = .badCheck := by
  rw [frameVerdict_crc hp, if_pos (bne_iff_ne.mpr h)]

theorem frameVerdict_noCommand (hp : p.length ≤ 40) (h : mgmtCommand code.toNat arg.toNat p = none) :
    frameVerdict (frameBody code arg p ++ [crc8 (frameBody code arg p)]) = .badCommand := by
  rw [frameVerdict_crc hp, bne_self_eq_false, if_neg Bool.false_ne_true, h]

theorem frameVerdict_command {f : State → MgmtResult} (hp : p.length ≤ 40)
    (h : mgmtCommand code.toNat arg.toNat p = some f) :
    frameVerdict (frameBody code arg p ++ [crc8 (frameBody code arg p)]) = .command f := by
  rw [frameVerdict_crc hp, bne_self_eq_false, if_neg Bool.false_ne_true, h]

/-- A length byte above 40 ends the frame (R175). -/
theorem frameVerdict_tooLong (h : 40 < len.toNat) : frameVerdict [code, arg, len] = .badCheck := if_pos h

/-- Codes 0 and 19 to 255 are no command's (R179). -/
theorem mgmtCommand_none {code arg : Nat} (h : code = 0 ∨ 19 ≤ code) : mgmtCommand code arg p = none := by
  rcases h with rfl | h
  · rfl
  · obtain ⟨k, rfl⟩ := Nat.exists_eq_add_of_le' h
    rfl

end Verdict

/-! ### A frame clocked in and its row -/

section Rows
variable {s : State} {code arg : Byte} {p : List Byte} {f : State → MgmtResult}

/-- A frame clocked in acts as its code says. -/
theorem State.clockIn_frame (hs : s.mgmt.Waits) (hp : p.length ≤ 40)
    (h : mgmtCommand code.toNat arg.toNat p = some f) :
    s.clockIn (frameBody code arg p ++ [crc8 (frameBody code arg p)]) = (f s).replied :=
  State.clockIn_command hs (fun n _ => frameVerdict_take hp n) (frameVerdict_command hp h)

/-- Each code but RELEASE's is the row of its command (R184). -/
theorem mgmtCommand_row {c : Instr} (hc : (code, c) ∈ [((1 : Byte), Instr.getItem arg p), (2, .setItem arg p), (3, .start p),
    (4, .quiesce p), (5, .configure p), (6, .halt p), (7, .restart p), (8, .flush p), (9, .readEntry arg p),
    (10, .readMaster arg p), (12, .faultPeek p), (13, .faultPop p), (14, .faultClear p), (15, .nextEvent p),
    (16, .endService p), (17, .scrubStart p), (18, .scrubStop p)]) :
    ∃ f, mgmtCommand code.toNat arg.toNat p = some f ∧ IsFrame c p f := by
  simp only [List.mem_cons, Prod.mk.injEq, List.not_mem_nil, or_false] at hc
  rcases hc with ⟨rfl, rfl⟩ | ⟨rfl, rfl⟩ | ⟨rfl, rfl⟩ | ⟨rfl, rfl⟩ | ⟨rfl, rfl⟩ | ⟨rfl, rfl⟩ | ⟨rfl, rfl⟩ | ⟨rfl, rfl⟩ |
    ⟨rfl, rfl⟩ | ⟨rfl, rfl⟩ | ⟨rfl, rfl⟩ | ⟨rfl, rfl⟩ | ⟨rfl, rfl⟩ | ⟨rfl, rfl⟩ | ⟨rfl, rfl⟩ | ⟨rfl, rfl⟩ | ⟨rfl, rfl⟩
  all_goals exact ⟨_, rfl, fun _ => rfl⟩

/-- The payloads of RELEASE that name an action (R183). -/
theorem releaseAction_some {a : State → EntryIx → State} (h : releaseAction p = some a) :
    p = [0] ∨ p = [1] ∨ p = [2] := by
  unfold releaseAction at h
  split at h
  · next b =>
    simp only [List.cons.injEq, and_true]
    split at h
    · next hb => exact .inl (BitVec.eq_of_toNat_eq hb)
    · next hb => exact .inr (.inl (BitVec.eq_of_toNat_eq hb))
    · next hb => exact .inr (.inr (BitVec.eq_of_toNat_eq hb))
    · exact absurd h nofun
  · exact absurd h nofun

/-- RELEASE without an action is refused by the state, and in a state that accepts it by its payload (R101). -/
theorem State.mgmtRelease_none (s : State) (i : Nat) : (s.mgmtRelease i none).replied = s.reply
    (if s.control.bridge = .run ∨ s.control.bridge = .quiescing ∨ s.control.bridge = .quiesced then .badValue
      else .badState) [] := by
  by_cases hb : s.control.bridge.releases = true
  · rw [if_pos (BridgeState.releases_iff.mp hb), State.mgmtRelease, hb]
    rfl
  · rw [if_neg (mt BridgeState.releases_iff.mpr hb), State.mgmtRelease_badState (Bool.eq_false_iff.mpr hb),
      MgmtResult.replied_refused]

/-- A frame of code 11 clocked in is RELEASE with the action its payload names (R183). -/
theorem State.clockIn_release {a : Option (State → EntryIx → State)} (hs : s.mgmt.Waits) (hp : p.length ≤ 40)
    (ha : releaseAction p = a) :
    s.clockIn (frameBody 11 arg p ++ [crc8 (frameBody 11 arg p)]) = (s.mgmtRelease arg.toNat a).replied := by
  rw [← ha]
  exact State.clockIn_frame (f := fun s => s.mgmtRelease arg.toNat (releaseAction p)) hs hp rfl

end Rows

/-- Settles O58: the verdict on the frame's bytes, then the row of its code. -/
theorem clockedFramesAreTheirRows : Obligations.ClockedFramesAreTheirRows := by
  intro s code arg len crc p hm hc hbytes hbits run body
  have hs : s.mgmt.Waits := ⟨hm, hc, hbytes, hbits⟩
  have hrun (frame : List Byte) : run frame = .next (s.clockIn frame) := foldl_exec_rising _ s
  refine ⟨fun hp c hrow => ?_, ?_, fun hp hcode => ?_, fun hp hcrc => ?_, fun hlen => ?_⟩
  · obtain ⟨f, hf, hframe⟩ := mgmtCommand_row hrow
    rw [hrun, hframe s, State.execute_of_le hp]
    exact congrArg Host.Outcome.next (State.clockIn_frame hs hp hf)
  · rintro rfl
    refine ⟨?_, ?_, ?_, fun hp h0 h1 h2 => ?_⟩
    · rintro rfl
      exact (hrun _).trans (congrArg Host.Outcome.next (State.clockIn_release hs (by decide) rfl))
    · rintro rfl
      exact (hrun _).trans (congrArg Host.Outcome.next (State.clockIn_release hs (by decide) rfl))
    · rintro rfl
      exact (hrun _).trans (congrArg Host.Outcome.next (State.clockIn_release hs (by decide) rfl))
    · have hnone : releaseAction p = none := Option.eq_none_iff_forall_ne_some.mpr fun a ha => by
        rcases releaseAction_some ha with rfl | rfl | rfl <;> contradiction
      rw [hrun, ← State.mgmtRelease_none s arg.toNat]
      exact congrArg Host.Outcome.next (State.clockIn_release hs hp hnone)
  · rw [hrun]
    refine congrArg Host.Outcome.next (State.clockIn_badCommand hs (fun n _ => frameVerdict_take hp n) ?_)
    exact frameVerdict_noCommand hp (mgmtCommand_none (hcode.imp_left (congrArg BitVec.toNat)))
  · rw [hrun]
    exact congrArg Host.Outcome.next
      (State.clockIn_badCheck hs (fun n _ => frameVerdict_take hp n) (frameVerdict_badCrc hp hcrc))
  · rw [hrun]
    refine congrArg Host.Outcome.next (State.clockIn_badCheck (l := [code, arg]) hs (fun n _ => ?_)
      (frameVerdict_tooLong hlen))
    exact frameVerdict_short ((List.length_take_le' n _).trans_lt (Nat.lt_succ_self 2))

end Sys2Proof.Machine

namespace Sys2Proof.Machine

/-! ### A response frame going out (R174, R178) -/

/-- The state after a falling edge has put out bit `k` of the stream. -/
def State.shown (s : State) (k : Nat) : State :=
  { s with mgmt := { s.mgmt with mdo := streamBit s.mgmt.stream k, sent := k + 1 } }

/-- Falling edges with a rising edge of any MDI between two of them. -/
def pulses (mdi : List Bool) : List Edge := mdi.flatMap fun b => [Edge.falling, .rising b]

section Port
variable {g : MgmtPort}

theorem MgmtPort.allOut_of_lt (h : g.sent < 8 * g.stream.length) : g.allOut = false :=
  decide_eq_false (Nat.not_le.mpr h)

theorem MgmtPort.shiftOut_of_lt (h : g.sent < 8 * g.stream.length) :
    g.shiftOut = { g with mdo := streamBit g.stream g.sent, sent := g.sent + 1 } :=
  if_neg (Bool.eq_false_iff.mp (MgmtPort.allOut_of_lt h))

theorem MgmtPort.completeByte_of_lt (h : g.sent < 8 * g.stream.length) : g.completeByte = g :=
  if_neg (Bool.eq_false_iff.mp (MgmtPort.allOut_of_lt h))

theorem MgmtPort.completeByte_of_le (h : 8 * g.stream.length ≤ g.sent) :
    g.completeByte = { g with condition := .trailing } :=
  if_pos (decide_eq_true h)

end Port

theorem State.clock_falling_trailing {s : State} (hm : s.mgmt.msel = true) (hc : s.mgmt.condition = .trailing) :
    s.clock .falling = { s with mgmt := s.mgmt.shiftFiller } := by
  simp only [State.clock, hm, hc, Bool.true_eq_false, if_false]

section Outgoing
variable {s : State} (hm : s.mgmt.msel = true) (hc : s.mgmt.condition = .reply)
include hm hc

theorem State.clock_falling_reply (h : s.mgmt.sent < 8 * s.mgmt.stream.length) :
    s.clock .falling = s.shown s.mgmt.sent := by
  simp only [State.clock, hm, hc, Bool.true_eq_false, if_false]
  rw [MgmtPort.shiftOut_of_lt h]
  rfl

theorem State.clock_rising_reply (b : Bool) : s.clock (.rising b) = { s with mgmt := s.mgmt.completeByte } := by
  simp only [State.clock, hm, hc, Bool.true_eq_false, if_false]

/-- MDI is ignored while bits of the stream are left. -/
theorem State.clock_rising_ignored (h : s.mgmt.sent < 8 * s.mgmt.stream.length) (b : Bool) : s.clock (.rising b) = s := by
  rw [State.clock_rising_reply hm hc, MgmtPort.completeByte_of_lt h]

/-- The rising edge after the last bit completes the last byte. -/
theorem State.clock_rising_sent (h : 8 * s.mgmt.stream.length ≤ s.mgmt.sent) (b : Bool) :
    s.clock (.rising b) = { s with mgmt := { s.mgmt with condition := .trailing } } := by
  rw [State.clock_rising_reply hm hc, MgmtPort.completeByte_of_le h]

/-- One more falling edge than rising edges puts out one bit after the other. -/
theorem State.clock_pulses (mdi : List Bool) (h : s.mgmt.sent + mdi.length < 8 * s.mgmt.stream.length) :
    (pulses mdi ++ [Edge.falling]).foldl State.clock s = s.shown (s.mgmt.sent + mdi.length) := by
  induction mdi generalizing s with
  | nil => exact State.clock_falling_reply hm hc h
  | cons b mdi ih =>
    rw [List.length_cons, ← Nat.add_assoc, Nat.add_right_comm] at h ⊢
    have hmore : s.mgmt.sent + 1 < 8 * s.mgmt.stream.length := by omega
    have hfall : s.clock .falling = s.shown s.mgmt.sent := State.clock_falling_reply hm hc (by omega)
    have hrise : (s.shown s.mgmt.sent).clock (.rising b) = s.shown s.mgmt.sent :=
      State.clock_rising_ignored (s := s.shown s.mgmt.sent) hm hc hmore b
    calc (pulses (b :: mdi) ++ [Edge.falling]).foldl State.clock s
        = (pulses mdi ++ [Edge.falling]).foldl State.clock ((s.clock .falling).clock (.rising b)) := rfl
      _ = (pulses mdi ++ [Edge.falling]).foldl State.clock (s.shown s.mgmt.sent) := by rw [hfall, hrise]
      _ = s.shown (s.mgmt.sent + 1 + mdi.length) := ih (s := s.shown s.mgmt.sent) hm hc h

end Outgoing

/-- Settles O59: the bits go out one by one, and the rising edge after a bit completes the last byte or changes nothing. -/
theorem replyIsShiftedOut : Obligations.ReplyIsShiftedOut := by
  intro s mdi last hm hc hsent stream n hn run shown ended edges
  have hrun (l : List Edge) : run l = .next (l.foldl State.clock s) := foldl_exec_edges l s
  have hout : edges.foldl State.clock s = shown := by
    have h := State.clock_pulses hm hc mdi (by rw [hsent, Nat.zero_add]; exact hn)
    rw [hsent, Nat.zero_add] at h
    exact h
  have hedge (l : List Edge) : run (edges ++ l) = .next (l.foldl State.clock shown) := by
    rw [hrun, List.foldl_append, hout]
  refine ⟨(hrun edges).trans (congrArg _ hout), fun hmore => ?_, fun hlast => ?_⟩
  · exact (hedge _).trans (congrArg _ (State.clock_rising_ignored (s := shown) hm hc hmore last))
  · have hended : shown.clock (.rising last) = ended := State.clock_rising_sent (s := shown) hm hc hlast.ge last
    refine ⟨(hedge _).trans (congrArg _ hended), (hedge _).trans (congrArg _ ?_)⟩
    rw [List.foldl_cons, hended]
    exact State.clock_falling_trailing (s := ended) hm rfl

end Sys2Proof.Machine

/-! ## SET_ITEM where the item is refused (R179, R181) -/

namespace Sys2Proof.Machine

theorem State.inConfig_iff {s : State} : s.inConfig = true ↔ s.control.bridge = .config := beq_iff_eq

/-! ### Checks 3 and 4 of an item (R179) -/

/-- Item `i` is accepted in some states, and stored from payloads of `len` bytes with a value in a range. -/
structure State.Checks (s : State) (i : Nat) (accepted : Prop) (len : Nat) (range : Nat → Prop) : Prop where
  badState : ∀ {p}, ¬accepted → s.setItem i p = s.refused .badState
  badValue : ∀ {p}, accepted → p.length ≠ len ∨ ¬range (leValue p) → s.setItem i p = s.refused .badValue

theorem State.Checks.of_writeItem {s : State} {i len : Nat} {ok : Bool} {accepted : Prop} {range : Nat → Prop}
    (r : Nat → Bool) (hok : ok = true ↔ accepted) (hr : ∀ v, r v = true ↔ range v)
    (hset : ∀ p, ∃ f, s.setItem i p = s.writeItem ok len r p f) : s.Checks i accepted len range where
  badState {p} ha := by
    obtain ⟨f, hf⟩ := hset p
    rw [hf, Bool.eq_false_iff.mpr (mt hok.mp ha), State.writeItem_false]
  badValue {p} ha hv := by
    obtain ⟨f, hf⟩ := hset p
    rw [hf, hok.mpr ha]
    refine State.writeItem_badValue fun ⟨hlen, hrange⟩ => ?_
    exact hv.elim (absurd hlen) (absurd ((hr _).mp hrange))

/-! ### The checks of each item but the regions (R181) -/

section Items
variable (s : State)

theorem State.checks_memorySize : s.Checks 2 (s.control.bridge = .config) 1 (· ≤ 11) :=
  .of_writeItem _ State.inConfig_iff (fun _ => decide_eq_true_iff)
    fun p => ⟨_, show s.setMemorySize p = _ from rfl⟩

theorem State.checks_ageLimit : s.Checks 11 True 2 (· ≤ 1023) :=
  .of_writeItem _ (iff_of_true rfl trivial) (fun _ => decide_eq_true_iff)
    fun p => ⟨_, show s.setAgeLimit p = _ from rfl⟩

theorem State.checks_closeAhead : s.Checks 12 True 1 (· ≤ 8) :=
  .of_writeItem _ (iff_of_true rfl trivial) (fun _ => decide_eq_true_iff)
    fun p => ⟨_, show s.setCloseAhead p = _ from rfl⟩

theorem State.checks_responseTimeout : s.Checks 13 (s.control.bridge = .config) 1 fun v => 1 ≤ v ∧ v ≤ 255 :=
  .of_writeItem _ State.inConfig_iff (fun _ => decide_eq_true_iff)
    fun p => ⟨_, show s.setResponseTimeout p = _ from rfl⟩

theorem State.checks_retryLimit : s.Checks 14 (s.control.bridge = .config) 1 (· ≤ 3) :=
  .of_writeItem _ State.inConfig_iff (fun _ => decide_eq_true_iff)
    fun p => ⟨_, show s.setRetryLimit p = _ from rfl⟩

theorem State.checks_haltThreshold : s.Checks 15 (s.control.bridge = .config) 1 fun v => 1 ≤ v ∧ v ≤ 15 :=
  .of_writeItem _ State.inConfig_iff (fun _ => decide_eq_true_iff)
    fun p => ⟨_, show s.setHaltThreshold p = _ from rfl⟩

theorem State.checks_scrubInterval : s.Checks 16 True 2 (1 ≤ ·) :=
  .of_writeItem _ (iff_of_true rfl trivial) (fun _ => decide_eq_true_iff)
    fun p => ⟨_, show s.setScrubInterval p = _ from rfl⟩

/-- SCRUB-POSITION's condition on the scrubber is its check of the state (R132, log entry 13). -/
theorem State.checks_scrubPosition : s.Checks 17 (s.scrub.running = false) 4 (· < s.capacityLines) :=
  .of_writeItem _ (by rw [Bool.not_eq_true']) (fun _ => decide_eq_true_iff)
    fun p => ⟨_, show s.setScrubPosition p = _ from rfl⟩

theorem State.checks_correctedCount : s.Checks 19 True 2 fun _ => True :=
  .of_writeItem (fun _ => true) (iff_of_true rfl trivial) (fun _ => iff_of_true rfl trivial)
    fun p => ⟨_, show s.setCorrectedCount p = _ from rfl⟩

theorem State.checks_logCorrected : s.Checks 20 True 1 (· ≤ 1) :=
  .of_writeItem _ (iff_of_true rfl trivial) (fun _ => decide_eq_true_iff)
    fun p => ⟨_, show s.setLogCorrected p = _ from rfl⟩

theorem maskInRange_odd_iff {v : Nat} : (maskInRange v && v % 2 == 1) = true ↔ v < 4096 ∧ v % 2 = 1 := by
  simp [maskInRange]

theorem State.checks_eventEnable :
    s.Checks 21 (s.control.bridge ≠ .restarting) 2 fun v => v < 4096 ∧ v % 2 = 1 :=
  .of_writeItem _ State.notRestarting_iff (fun _ => maskInRange_odd_iff)
    fun p => ⟨_, show s.setEventEnable p = _ from rfl⟩

theorem State.checks_eventLevel :
    s.Checks 22 (s.control.bridge ≠ .restarting) 2 fun v => v < 4096 ∧ v % 2 = 1 :=
  .of_writeItem _ State.notRestarting_iff (fun _ => maskInRange_odd_iff)
    fun p => ⟨_, show s.setEventLevel p = _ from rfl⟩

theorem State.checks_eventPending : s.Checks 23 (s.control.bridge ≠ .restarting) 2 (· < 4096) :=
  .of_writeItem maskInRange State.notRestarting_iff (fun _ => decide_eq_true_iff)
    fun p => ⟨_, show s.setEventPending p = _ from rfl⟩

theorem State.checks_frameErrors : s.Checks 28 True 1 fun _ => True :=
  .of_writeItem (fun _ => true) (iff_of_true rfl trivial) (fun _ => iff_of_true rfl trivial)
    fun p => ⟨_, show s.setFrameErrors p = _ from rfl⟩

end Items

/-! ### The refusals of SET_ITEM -/

section SetItem
variable {s : State} {i : Nat} {p : List Byte}

/-- Items 3 to 10 are REGION-0 to REGION-7 (R181). -/
theorem State.setItem_region (s : State) (p : List Byte) : ∀ n : RegionIx, s.setItem (3 + n.val) p = s.setRegion n p
  | 0 | 1 | 2 | 3 | 4 | 5 | 6 | 7 => rfl

theorem State.setRegion_badState {n : RegionIx} (h : ¬s.control.bridge = .config) :
    s.setRegion n p = s.refused .badState :=
  if_pos (Bool.eq_false_iff.mpr (mt State.inConfig_iff.mp h))

theorem State.setRegion_badValue {n : RegionIx} (h : s.control.bridge = .config) (hp : regionOfBytes p = none) :
    s.setRegion n p = s.refused .badValue := by
  rw [State.setRegion, State.inConfig_of h, hp, if_neg (by decide)]

theorem State.setItem_eq_setRegion (h3 : 3 ≤ i) (h10 : i ≤ 10) : ∃ n, s.setItem i p = s.setRegion n p := by
  obtain ⟨n, rfl⟩ := Nat.exists_eq_add_of_le h3
  exact ⟨⟨n, by omega⟩, s.setItem_region p ⟨n, by omega⟩⟩

/-- Read-only items and numbers above the table (R179 check 2). -/
theorem State.setItem_badItem (h : i ∈ [0, 1, 18, 24, 25, 26, 27] ∨ 29 ≤ i) : s.setItem i p = s.refused .badItem := by
  rcases h with h | h
  · simp only [List.mem_cons, List.not_mem_nil, or_false] at h
    rcases h with rfl | rfl | rfl | rfl | rfl | rfl | rfl <;> rfl
  · obtain ⟨k, rfl⟩ := Nat.exists_eq_add_of_le' h
    rfl

/-- The items that are stored in CONFIG alone (R179 check 3). -/
theorem State.setItem_notConfig (h : i ∈ [2, 3, 4, 5, 6, 7, 8, 9, 10, 13, 14, 15]) (hb : ¬s.control.bridge = .config) :
    s.setItem i p = s.refused .badState := by
  have hitem : i = 2 ∨ (3 ≤ i ∧ i ≤ 10) ∨ i = 13 ∨ i = 14 ∨ i = 15 := by
    simp only [List.mem_cons, List.not_mem_nil, or_false] at h
    omega
  rcases hitem with rfl | ⟨h3, h10⟩ | rfl | rfl | rfl
  · exact s.checks_memorySize.badState hb
  · obtain ⟨n, hn⟩ := State.setItem_eq_setRegion (s := s) (p := p) h3 h10
    rw [hn, State.setRegion_badState hb]
  · exact s.checks_responseTimeout.badState hb
  · exact s.checks_retryLimit.badState hb
  · exact s.checks_haltThreshold.badState hb

/-- The masks of the event unit are not stored in RESTARTING. -/
theorem State.setItem_restarting (h : i ∈ [21, 22, 23]) (hb : s.control.bridge = .restarting) :
    s.setItem i p = s.refused .badState := by
  simp only [List.mem_cons, List.not_mem_nil, or_false] at h
  rcases h with rfl | rfl | rfl
  · exact s.checks_eventEnable.badState (not_not.mpr hb)
  · exact s.checks_eventLevel.badState (not_not.mpr hb)
  · exact s.checks_eventPending.badState (not_not.mpr hb)

end SetItem

theorem isFrame_setItem (item : Byte) (p : List Byte) :
    IsFrame (.setItem item p) p fun s => s.setItem item.toNat p := fun _ => rfl

/-- SET_REGION is SET_ITEM of its region's item (R6, R181). -/
theorem exec_setRegion (n : RegionIx) (p : List Byte) (s : State) :
    exec (.setRegion n p) s = exec (.setItem (BitVec.ofNat 8 (3 + n.val)) p) s := by
  have hitem : (BitVec.ofNat 8 (3 + n.val)).toNat = 3 + n.val := by
    rw [BitVec.toNat_ofNat]
    omega
  have hset (t : State) : t.setItem (BitVec.ofNat 8 (3 + n.val)).toNat p = t.setRegion n p := by
    rw [hitem, State.setItem_region]
  rw [isFrame_setItem _ p s, funext hset]
  rfl

/-- Settles O52: the item number, the bridge state and the payload, each refused by the checks of the item. -/
theorem setItemRefusesByTheFirstCheck : Obligations.SetItemRefusesByTheFirstCheck := by
  intro s item p i v config
  have hrefused {st : MgmtStatus} (hp : p.length ≤ 40) (h : s.setItem i p = s.refused st) :
      exec (.setItem item p) s = .next (s.reply st []) := (isFrame_setItem item p).exec_refused hp h
  clear_value i
  refine ⟨fun hp => ⟨fun h => hrefused hp (State.setItem_badItem h), fun h => hrefused hp ?_, fun h => hrefused hp ?_⟩,
    rfl, fun n => exec_setRegion n p s, rfl, rfl, rfl, rfl, rfl, rfl, rfl⟩
  · rcases h with ⟨hi, hb⟩ | ⟨hi, hb⟩ | ⟨rfl, hs⟩
    · exact State.setItem_notConfig hi hb
    · exact State.setItem_restarting hi hb
    · exact s.checks_scrubPosition.badState (ne_false_of_eq_true hs)
  · rcases h with ⟨rfl, hb, hv⟩ | ⟨h3, h10, hb, hr⟩ | ⟨rfl, hv⟩ | ⟨rfl, hv⟩ | ⟨rfl, hb, hv⟩ | ⟨rfl, hb, hv⟩ |
      ⟨rfl, hb, hv⟩ | ⟨rfl, hv⟩ | ⟨rfl, hs, hv⟩ | ⟨rfl, hv⟩ | ⟨rfl, hv⟩ | ⟨rfl | rfl, hb, hv⟩ | ⟨rfl, hb, hv⟩ | ⟨rfl, hv⟩
    · exact s.checks_memorySize.badValue hb (by omega)
    · obtain ⟨n, hn⟩ := State.setItem_eq_setRegion (s := s) (p := p) h3 h10
      rw [hn, State.setRegion_badValue hb hr]
    · exact s.checks_ageLimit.badValue trivial (by omega)
    · exact s.checks_closeAhead.badValue trivial (by omega)
    · exact s.checks_responseTimeout.badValue hb (by omega)
    · exact s.checks_retryLimit.badValue hb (by omega)
    · exact s.checks_haltThreshold.badValue hb (by omega)
    · exact s.checks_scrubInterval.badValue trivial (by omega)
    · exact s.checks_scrubPosition.badValue hs (by omega)
    · exact s.checks_correctedCount.badValue trivial (.inl hv)
    · exact s.checks_logCorrected.badValue trivial (by omega)
    · exact s.checks_eventEnable.badValue hb (by omega)
    · exact s.checks_eventLevel.badValue hb (by omega)
    · exact s.checks_eventPending.badValue hb (by omega)
    · exact s.checks_frameErrors.badValue trivial (.inl hv)

end Sys2Proof.Machine

/-! ## GET_ITEM, READ_ENTRY and READ_MASTER (R40, R90, R179-R181, R184) -/

namespace Sys2Proof.Machine

/-! ### The item table (R181) -/

/-- The values of the items 0 to 28 in their order. -/
def State.itemTable (s : State) : List (List Byte) := (List.range 29).map fun n => (s.itemValue n).getD []

section Items
variable {s : State} {n : Nat}

theorem State.itemValue_of_le (h : 29 ≤ n) : s.itemValue n = none := by
  obtain ⟨k, rfl⟩ := Nat.exists_eq_add_of_le' h
  rfl

theorem State.itemValue_of_lt (h : n < 29) : ∃ v, s.itemValue n = some v := by
  interval_cases n <;> exact ⟨_, rfl⟩

/-- GET-ITEM answers from the table. -/
theorem State.itemValue_of_table {v : List Byte} (h : s.itemTable[n]? = some v) : s.itemValue n = some v := by
  have hn : n < 29 := by
    by_contra hn
    simp [State.itemTable, hn] at h
  obtain ⟨w, hw⟩ := State.itemValue_of_lt (s := s) hn
  simp only [State.itemTable, List.getElem?_map, List.getElem?_range hn, Option.map_some, hw, Option.getD_some] at h
  rw [hw, h]

end Items

/-! ### What the three commands answer -/

section Observing
variable {s : State} {i : Byte} {p : List Byte}

theorem isFrame_getItem (i : Byte) (p : List Byte) : IsFrame (.getItem i p) p fun s => s.getItem i.toNat p := fun _ => rfl

theorem exec_getItem {v : List Byte} (h : s.itemValue i.toNat = some v) :
    exec (.getItem i []) s = .next (s.reply .ok v) := by
  rw [isFrame_getItem, State.execute_nil, State.getItem, h]
  rfl

theorem exec_getItem_badItem (hp : p.length ≤ 40) (h : 29 ≤ i.toNat) :
    exec (.getItem i p) s = .next (s.reply .badItem []) := by
  refine (isFrame_getItem i p).exec_refused hp ?_
  rw [State.getItem, State.itemValue_of_le h]

theorem exec_getItem_badValue (hp : p.length ≤ 40) (hne : p ≠ []) (h : i.toNat < 29) :
    exec (.getItem i p) s = .next (s.reply .badValue []) := by
  obtain ⟨v, hv⟩ := State.itemValue_of_lt (s := s) h
  refine (isFrame_getItem i p).exec_refused hp ?_
  rw [State.getItem, hv]
  exact State.noPayload_of_ne hne

theorem exec_readEntry {e : EntryIx} (h : i.toNat = e.val) :
    exec (.readEntry i []) s = .next (s.reply .ok s.buffer.entries[e].layout) := by
  change Host.Outcome.next (s.mgmtReadEntry i.toNat []).replied = _
  rw [h, State.mgmtReadEntry, State.noPayload_nil, dif_pos e.isLt]
  rfl

theorem exec_readEntry_badValue (h : 16 ≤ i.toNat) : exec (.readEntry i []) s = .next (s.reply .badValue []) := by
  change Host.Outcome.next (s.mgmtReadEntry i.toNat []).replied = _
  rw [State.mgmtReadEntry, State.noPayload_nil, dif_neg (Nat.not_lt.mpr h)]
  rfl

theorem exec_readMaster {m : MasterIx} (h : i.toNat = m.val) :
    exec (.readMaster i []) s = .next (s.reply .ok s.masters[m].layout) := by
  change Host.Outcome.next (s.mgmtReadMaster i.toNat []).replied = _
  rw [h, State.mgmtReadMaster, State.noPayload_nil, dif_pos m.isLt]
  rfl

theorem exec_readMaster_badValue (h : 8 ≤ i.toNat) : exec (.readMaster i []) s = .next (s.reply .badValue []) := by
  change Host.Outcome.next (s.mgmtReadMaster i.toNat []).replied = _
  rw [State.mgmtReadMaster, State.noPayload_nil, dif_neg (Nat.not_lt.mpr h)]
  rfl

end Observing

/-! ### The bytes of the records (R40, R184) -/

/-- The bytes of a set's positions, and zero at every other (R40). -/
theorem overlayBytes_zero_toList (v : PosSet) (d : LineBytes) :
    (overlayBytes v d (Vector.replicate 32 0)).toList =
      (List.finRange 32).map fun (p : Fin 32) => if v.getLsbD p then d[p] else 0 := by
  rw [overlayBytes, Vector.toList_ofFn, List.ofFn_eq_map]
  refine List.map_congr_left fun p _ => ?_
  simp

theorem orZero_line (o : Option Nat) : orZero id o = o.getD 0 := by cases o <;> rfl

theorem orZero_order (o : Option (BitVec 16)) : orZero BitVec.toNat o = (o.getD 0).toNat := by cases o <;> rfl

theorem ageBytes_eq_getD (o : Option Nat) : ageBytes o = o.getD 65535 := by cases o <;> rfl

/-- Settles O50: the layouts of the statement are the model's, field by field, and each command answers with its own. -/
theorem observingCommandsAnswer : Obligations.ObservingCommandsAnswer := by
  intro s i le yes region entry master level bridge cause free items
  have hle : le = leBytes := funext fun n => funext fun v => (leBytes_eq_map n v).symm
  have hregion (r : Region) : region r = r.layout := by
    simp only [region, hle]
    rfl
  have hentry (x : Entry) : entry x = x.layout := by
    simp only [entry, hle, Entry.layout, overlayBytes_zero_toList, orZero_line, orZero_order, ageBytes_eq_getD]
    congr 1
    cases x.heldReason with
    | none => rfl
    | some r => cases r <;> rfl
  have hmaster (c : MasterCtx) : master c = c.layout := by
    simp only [master, hle, MasterCtx.layout]
    obtain ⟨tags, barrier, deferred⟩ := c
    cases deferred with
    | none => cases barrier <;> rfl
    | some d =>
      obtain ⟨kind, further⟩ := d
      cases kind <;> cases barrier <;> rfl
  have hlevel (l : Option Level) : level l = orZero Level.code l := by
    cases l with
    | none => rfl
    | some l => cases l <;> rfl
  have hbridge : bridge = s.control.bridge.code := rfl
  have hcause : cause = orZero HaltCause.code s.control.haltCause := by
    simp only [cause]
    cases s.control.haltCause with
    | none => rfl
    | some c => cases c <;> rfl
  have hfree : free = s.buffer.freeCount := rfl
  have hitems : items = s.itemTable := by
    have hregions : s.regionMap.regions.toList.map region =
        List.ofFn fun n : RegionIx => s.regionMap.regions[n].layout := by
      rw [funext hregion, ← Vector.toList_map, map_eq_ofFn, Vector.toList_ofFn]
    simp only [items, hle, hlevel, hbridge, hcause, hfree, hregions]
    rfl
  refine ⟨fun v hv => exec_getItem (State.itemValue_of_table (hitems ▸ hv)), ?_, fun p hp => exec_getItem_badItem hp,
    fun p hp => exec_getItem_badValue hp, fun e he => ?_, exec_readEntry_badValue, fun m hm => ?_, exec_readMaster_badValue⟩
  · rw [hitems, State.itemTable, List.length_map, List.length_range]
  · rw [hentry]
    exact exec_readEntry he
  · rw [hmaster]
    exact exec_readMaster hm

end Sys2Proof.Machine
